-- ==== Sys2Proof/Word.lean ====
section
/-! DEFINITION. The two word types of the block. A byte is the unit of the framebuffer, of the command port and of the
bus (R53); `s16` is the two's-complement operand type of R12 and R72. -/

namespace Sys2Proof

/-- `u8` of R12: an unsigned 8-bit value. -/
abbrev Byte := BitVec 8

/-- `s16` of R12: a two's-complement 16-bit value; its integer is `BitVec.toInt`. -/
abbrev S16 := BitVec 16

end Sys2Proof
end

