-- ==== Sys2Proof/Syntax.lean ====
section
/-! DEFINITION. The commands of the block: one constructor per row of spec/opcode_table.json (R76). Every operand is
an immediate (R72): coordinates and extents are `s16`, codes and raw bytes `u8`, text a byte list whose length is the
operand `n` of DRAW_STRING (R74, R81). -/

namespace Sys2Proof

inductive Instr where
  /-- `0x01` INIT (R195). -/
  | init
  /-- `0x02` CLEAR (R102). -/
  | clear
  /-- `0x03` UPDATE (R187). -/
  | update
  /-- `0x04` DISPLAY_OFF (R192). -/
  | displayOff
  /-- `0x05` DISPLAY_ON (R193). -/
  | displayOn
  /-- `0x06` SEND_CMD (R185). -/
  | sendCmd (b : Byte)
  /-- `0x07` SEND_DATA (R186). -/
  | sendData (b : Byte)
  /-- `0x10` SET_PIXEL_OFF (R104). -/
  | setPixelOff (x y : S16)
  /-- `0x11` SET_PIXEL_ON (R105). -/
  | setPixelOn (x y : S16)
  /-- `0x20` DRAW_LINE (R125). -/
  | drawLine (x0 y0 x1 y1 : S16)
  /-- `0x30` DRAW_RECT (R129). -/
  | drawRect (x y w h : S16)
  /-- `0x31` FILL_RECT (R130). -/
  | fillRect (x y w h : S16)
  /-- `0x40` DRAW_CIRCLE (R143). -/
  | drawCircle (x y r : S16)
  /-- `0x41` FILL_CIRCLE (R144). -/
  | fillCircle (x y r : S16)
  /-- `0x50` DRAW_CHAR (R165). -/
  | drawChar (x y : S16) (c : Byte)
  /-- `0x51` DRAW_STRING (R166); the operand `n` is `text.length`. -/
  | drawString (x y : S16) (text : List Byte)
  deriving DecidableEq, Repr

end Sys2Proof
end

