-- ==== Sys2Proof/WellFormed.lean ====
section
/-! DEFINITION. Which terms of `Instr` are commands of the block. Every operand value is legal (R72, R77), so the only
check is that the length of a DRAW_STRING text fits its `u8` operand `n` (R72, R74, R81). -/

namespace Sys2Proof

/-- A text operand fits the `u8` length `n`: at most 255 bytes. -/
def textFits (text : List Byte) : Bool := text.length ≤ 255

/-- The command can be written into the command port. -/
def Instr.wellFormed : Instr → Bool
  | .init => true
  | .clear => true
  | .update => true
  | .displayOff => true
  | .displayOn => true
  | .sendCmd _ => true
  | .sendData _ => true
  | .setPixelOff _ _ => true
  | .setPixelOn _ _ => true
  | .drawLine _ _ _ _ => true
  | .drawRect _ _ _ _ => true
  | .fillRect _ _ _ _ => true
  | .drawCircle _ _ _ => true
  | .fillCircle _ _ _ => true
  | .drawChar _ _ _ => true
  | .drawString _ _ text => textFits text

end Sys2Proof
end

