-- ==== Sys2Proof/Decode.lean ====
section
/-! DEFINITION. The decoder of R75 over the bytes at `cp`, total on any byte list, and the encoder. Formats are those
of R74, opcode bytes those of R76, byte order that of R73. -/

namespace Sys2Proof

/-- What the decoder finds at `cp`. -/
inductive Decoded where
  /-- A whole command, and the bytes after it. -/
  | command (i : Instr) (rest : List Byte)
  /-- The opcode byte is legal but bytes of the command, or the opcode byte itself, are not present yet: the block
  waits (R75 step 4). -/
  | incomplete
  /-- The opcode byte is not in the opcode map (R75 step 2, R77). -/
  | illegalOpcode (op : Byte)
  deriving DecidableEq, Repr

/-- An `s16` operand from its two bytes, least significant first (R73). -/
def s16OfBytes (b0 b1 : Byte) : S16 := b1 ++ b0

/-- The two bytes of an `s16` operand, least significant first (R73). -/
def bytesOfS16 (v : S16) : List Byte := [v.setWidth 8, (v >>> 8).setWidth 8]

/-- A reader of the operand bytes of one format: the command and the bytes after it, or nothing while bytes of it are
missing. -/
abbrev OperandReader := List Byte → Option (Instr × List Byte)

/-- Format `N` (R74): no operands. -/
def readN (i : Instr) : OperandReader := fun bs => some (i, bs)

/-- Format `B` (R74): one `u8`. -/
def readB (k : Byte → Instr) : OperandReader
  | b :: bs => some (k b, bs)
  | _ => none

/-- Format `P` (R74): `x`, `y`. -/
def readP (k : S16 → S16 → Instr) : OperandReader
  | x0 :: x1 :: y0 :: y1 :: bs => some (k (s16OfBytes x0 x1) (s16OfBytes y0 y1), bs)
  | _ => none

/-- Format `T` (R74): `x`, `y`, `r`. -/
def readT (k : S16 → S16 → S16 → Instr) : OperandReader
  | x0 :: x1 :: y0 :: y1 :: r0 :: r1 :: bs =>
    some (k (s16OfBytes x0 x1) (s16OfBytes y0 y1) (s16OfBytes r0 r1), bs)
  | _ => none

/-- Format `Q` (R74): four `s16`. -/
def readQ (k : S16 → S16 → S16 → S16 → Instr) : OperandReader
  | a0 :: a1 :: b0 :: b1 :: c0 :: c1 :: d0 :: d1 :: bs =>
    some (k (s16OfBytes a0 a1) (s16OfBytes b0 b1) (s16OfBytes c0 c1) (s16OfBytes d0 d1), bs)
  | _ => none

/-- Format `G` (R74): `x`, `y`, `c`. -/
def readG (k : S16 → S16 → Byte → Instr) : OperandReader
  | x0 :: x1 :: y0 :: y1 :: c :: bs => some (k (s16OfBytes x0 x1) (s16OfBytes y0 y1) c, bs)
  | _ => none

/-- The first `n` bytes and the bytes after them, or nothing while bytes are missing. -/
def takeText : Nat → List Byte → Option (List Byte × List Byte)
  | 0, bs => some ([], bs)
  | n + 1, b :: bs =>
    match takeText n bs with
    | some (text, rest) => some (b :: text, rest)
    | none => none
  | _ + 1, [] => none

/-- Format `S` (R74): `x`, `y`, `n`, then `n` bytes of text. -/
def readS (k : S16 → S16 → List Byte → Instr) : OperandReader
  | x0 :: x1 :: y0 :: y1 :: n :: bs =>
    match takeText n.toNat bs with
    | some (text, rest) => some (k (s16OfBytes x0 x1) (s16OfBytes y0 y1) text, rest)
    | none => none
  | _ => none

/-- The opcode map of R76: 16 legal opcode bytes, each with the reader of its format. -/
def opcodeMap : List (Byte × OperandReader) :=
  [ (0x01#8, readN .init),
    (0x02#8, readN .clear),
    (0x03#8, readN .update),
    (0x04#8, readN .displayOff),
    (0x05#8, readN .displayOn),
    (0x06#8, readB .sendCmd),
    (0x07#8, readB .sendData),
    (0x10#8, readP .setPixelOff),
    (0x11#8, readP .setPixelOn),
    (0x20#8, readQ .drawLine),
    (0x30#8, readQ .drawRect),
    (0x31#8, readQ .fillRect),
    (0x40#8, readT .drawCircle),
    (0x41#8, readT .fillCircle),
    (0x50#8, readG .drawChar),
    (0x51#8, readS .drawString) ]

/-- The decoder (R75): the opcode byte is judged before any operand byte is looked at. -/
def decode : List Byte → Decoded
  | [] => .incomplete
  | op :: bs =>
    match opcodeMap.lookup op with
    | none => .illegalOpcode op
    | some read =>
      match read bs with
      | some (i, rest) => .command i rest
      | none => .incomplete

/-- The bytes of a command in the command port (R70, R74, R76). -/
def encode : Instr → List Byte
  | .init => [0x01#8]
  | .clear => [0x02#8]
  | .update => [0x03#8]
  | .displayOff => [0x04#8]
  | .displayOn => [0x05#8]
  | .sendCmd b => [0x06#8, b]
  | .sendData b => [0x07#8, b]
  | .setPixelOff x y => 0x10#8 :: (bytesOfS16 x ++ bytesOfS16 y)
  | .setPixelOn x y => 0x11#8 :: (bytesOfS16 x ++ bytesOfS16 y)
  | .drawLine x0 y0 x1 y1 => 0x20#8 :: (bytesOfS16 x0 ++ bytesOfS16 y0 ++ bytesOfS16 x1 ++ bytesOfS16 y1)
  | .drawRect x y w h => 0x30#8 :: (bytesOfS16 x ++ bytesOfS16 y ++ bytesOfS16 w ++ bytesOfS16 h)
  | .fillRect x y w h => 0x31#8 :: (bytesOfS16 x ++ bytesOfS16 y ++ bytesOfS16 w ++ bytesOfS16 h)
  | .drawCircle x y r => 0x40#8 :: (bytesOfS16 x ++ bytesOfS16 y ++ bytesOfS16 r)
  | .fillCircle x y r => 0x41#8 :: (bytesOfS16 x ++ bytesOfS16 y ++ bytesOfS16 r)
  | .drawChar x y c => 0x50#8 :: (bytesOfS16 x ++ bytesOfS16 y ++ [c])
  | .drawString x y text =>
    0x51#8 :: (bytesOfS16 x ++ bytesOfS16 y ++ BitVec.ofNat 8 text.length :: text)

/-- The longest command: DRAW_STRING with 255 bytes of text (R74). -/
def maxCommandBytes : Nat := 261

/-- An instruction word of spec/opcode_table.json as bytes of the command port: byte `k` is bits `8k + 7` to `8k` of
`w`, and every bit from `nbits` on is 0, up to the longest command. -/
def tableBytes (nbits w : Nat) : List Byte :=
  (List.range maxCommandBytes).map fun (k : Nat) => BitVec.ofNat 8 (w % 2 ^ nbits / 2 ^ (8 * k))

/-- The command the decoder reads from an instruction word numbered as spec/opcode_table.json numbers it. -/
def decodeTableWord (nbits w : Nat) : Option Instr :=
  match decode (tableBytes nbits w) with
  | .command i _ => some i
  | .incomplete => none
  | .illegalOpcode _ => none

end Sys2Proof
end

