-- ==== Sys2Proof/Config.lean ====
section
/-! DEFINITION. What is fixed for one block before reset and never changes while it runs (R8, R254): its size and the
OPEN parameters of 00_scope.md section 4 (D8, D13, D16 to D19, D23, D24). Every OPEN value of the block at
`State.reset` but `LINE_RASTER`, whose default the spec gives, is a projection of one `opaque` constant with no body: no proof can see it. -/

namespace Sys2Proof

/-- One glyph: five column bytes, left to right, bit 0 the top row (R160). -/
abbrev Glyph := Vector Byte 5

/-- `GLYPH_BG` (R163): what a 0-bit of a glyph does. -/
inductive GlyphBg where
  | transparent
  | opaqueCells
  deriving DecidableEq, Repr, Inhabited

/-- A place where the line from `(x0, y0)` to `(x1, y1)` may pass exactly between two pixels: `t` is the coordinate on
its major axis. -/
structure LineTie where
  x0 : Int
  y0 : Int
  x1 : Int
  y1 : Int
  t : Int
  deriving DecidableEq, Repr, Inhabited

/-- The value of the parameter `LINE_RASTER` (R124, D8) as plain data: the envelope of R123 fixes every pixel of a line
but at a tie, and there it leaves the pixel the default takes and the one on the other side of the ideal line.
`otherPixel` says which of the two is taken, `exceptions` the ties where it is the opposite. -/
structure LineRaster where
  otherPixel : Bool
  exceptions : List LineTie
  deriving DecidableEq, Repr, Inhabited

/-- The default of `LINE_RASTER`, which the spec takes: the pixels of `LineDefault` (R124). -/
def LineRaster.ofDefault : LineRaster := ⟨false, []⟩

/-- The configuration. A list-valued init parameter holds the bytes R196 leaves open; the bytes R196 fixes (the
multiplex operand, the display offset, steps 1 and 17) are added by `Config.initSeq`. -/
structure Config where
  /-- `WIDTH` (R8). -/
  width : Nat
  /-- `HEIGHT` (R8). -/
  height : Nat
  /-- How many hosts write the one command port (R63 admits one). -/
  hosts : Nat
  /-- `DEV_ADDR` (R181, D17). -/
  devAddr : BitVec 7
  /-- `OP_COLADDR` (R188, D19). -/
  opColAddr : Byte
  /-- `OP_PAGEADDR` (R188, D19). -/
  opPageAddr : Byte
  /-- `OP_DISPLAY_OFF` (R192, D19). -/
  opDisplayOff : Byte
  /-- `OP_DISPLAY_ON` (R193, D19). -/
  opDisplayOn : Byte
  /-- `INIT_CLKDIV`: opcode and one operand (R196 step 2). -/
  initClkDiv : Byte × Byte
  /-- `INIT_MUX` without its last byte `HEIGHT - 1` (R196 step 3). -/
  initMux : List Byte
  /-- `INIT_OFFSET` without its last byte 0 (R196 step 4). -/
  initOffset : List Byte
  /-- `INIT_STARTLINE` (R196 step 5). -/
  initStartLine : List Byte
  /-- `INIT_CHARGEPUMP` (R196 step 6). -/
  initChargePump : Byte × Byte
  /-- `INIT_ADDRMODE` (R196 step 7). -/
  initAddrMode : Byte × Byte
  /-- `INIT_SEGREMAP` (R196 step 8). -/
  initSegRemap : List Byte
  /-- `INIT_COMSCAN` (R196 step 9). -/
  initComScan : List Byte
  /-- `INIT_COMPINS` (R196 step 10). -/
  initComPins : Byte × Byte
  /-- `INIT_CONTRAST` (R196 step 11). -/
  initContrast : Byte × Byte
  /-- `INIT_PRECHARGE` (R196 step 12). -/
  initPrecharge : Byte × Byte
  /-- `INIT_VCOM` (R196 step 13). -/
  initVcom : Byte × Byte
  /-- `INIT_RESUME` (R196 step 14). -/
  initResume : List Byte
  /-- `INIT_NORMAL` (R196 step 15). -/
  initNormal : List Byte
  /-- `INIT_NOSCROLL` (R196 step 16). -/
  initNoScroll : List Byte
  /-- `T_PWR_SETTLE` (R197, R262); the unit of time is the configuration's own. -/
  tPwrSettle : Nat
  /-- `T_RST_1` (R200, R262). -/
  tRst1 : Nat
  /-- `T_RST_2` (R200, R262). -/
  tRst2 : Nat
  /-- `PWR_EN_ACTIVE_LEVEL` (R30, D23): the electrical level of `ON`, true for high. -/
  pwrEnActiveLevel : Bool
  /-- `RST_ACTIVE_LEVEL` (R30, D23): the electrical level of `RESET`, true for high. -/
  rstActiveLevel : Bool
  /-- `GLYPH_TABLE` (R160, D16) for the codes 33 to 126, code `c` at index `c - 33`; R161 fixes code 32. -/
  glyphs : Vector Glyph 94
  /-- `GLYPH_BG` (R163, D13). -/
  glyphBg : GlyphBg
  /-- `LINE_RASTER` (R124, D8). -/
  lineRaster : LineRaster
  deriving DecidableEq, Repr, Inhabited

/-- The OPEN parameters of the block at hand: unknown, with no body (R11, D13, D16 to D19, D23, D24). -/
opaque Config.openValues : Config

/-- The configuration of `State.reset`: the reference size 128 by 64 (R8), one host (R63), the default of `LINE_RASTER`
(R124), every other OPEN value free. -/
def Config.board : Config :=
  { Config.openValues with width := 128, height := 64, hosts := 1, lineRaster := LineRaster.ofDefault }

/-- The acknowledgement the bus environment draws for the `n`-th transaction once a state's scripted draws are used up:
a free value with no law (R182, U6). -/
opaque Config.ackDraw : Nat → Bool

end Sys2Proof
end

