-- ==== Sys2Proof/Machine/Params.lean ====
section
/-! DEFINITION. The constants of the block and what is computed from its configuration: sizes, the admission check,
the init sequence, the glyph of a code (00_scope.md section 4, R196, R160 to R162). -/

namespace Sys2Proof

/-- `CTRL_CMD` (R180). -/
def ctrlCmd : Byte := 0x80#8

/-- `CTRL_DATA` (R180). -/
def ctrlData : Byte := 0x40#8

/-- `CHUNK`: data bytes per bus transaction in UPDATE (R189). -/
def chunkBytes : Nat := 16

/-- `GLYPH_W` (R160). -/
def glyphWidth : Nat := 5

/-- `GLYPH_H` (R160, R164): bit 7 of a column byte is never read. -/
def glyphHeight : Nat := 7

/-- `ADVANCE`: columns from one character of a string to the next (R166). -/
def cursorAdvance : Int := 6

/-- `N_FB`: framebuffer bytes (R9). -/
def Config.nFb (c : Config) : Nat := c.width * c.height / 8

/-- `PAGES`: 8-row pages (R10, R51). -/
def Config.pages (c : Config) : Nat := c.height / 8

/-- The sizes R10 admits. -/
def Config.sizeAdmitted (c : Config) : Bool :=
  c.height % 8 == 0 && decide (8 ≤ c.height) && decide (c.height ≤ 256) &&
    decide (1 ≤ c.width) && decide (c.width ≤ 256)

/-- One host writes the command port (R63). -/
def Config.oneHost (c : Config) : Bool := c.hosts == 1

/-- The configurations a model admits (R10, R63). -/
def Config.admitted (c : Config) : Bool := c.sizeAdmitted && c.oneHost

/-- `INIT_SEQ`: the 17 steps of R196 in order. -/
def Config.initSeq (c : Config) : List Byte :=
  [c.opDisplayOff] ++
  [c.initClkDiv.1, c.initClkDiv.2] ++
  (c.initMux ++ [BitVec.ofNat 8 (c.height - 1)]) ++
  (c.initOffset ++ [0x00#8]) ++
  c.initStartLine ++
  [c.initChargePump.1, c.initChargePump.2] ++
  [c.initAddrMode.1, c.initAddrMode.2] ++
  c.initSegRemap ++
  c.initComScan ++
  [c.initComPins.1, c.initComPins.2] ++
  [c.initContrast.1, c.initContrast.2] ++
  [c.initPrecharge.1, c.initPrecharge.2] ++
  [c.initVcom.1, c.initVcom.2] ++
  c.initResume ++
  c.initNormal ++
  c.initNoScroll ++
  [c.opDisplayOn]

/-- The glyph of the space character: all five columns blank (R161, D41). -/
def spaceGlyph : Glyph := Vector.replicate 5 0x00#8

/-- `g(c)` of R162: the code whose glyph is drawn for `c`. -/
def glyphCode (code : Byte) : Nat :=
  if 32 ≤ code.toNat ∧ code.toNat ≤ 126 then code.toNat else 32

/-- `GLYPH_TABLE[n - 32]` for a code `n` of 32 to 126 (R160, R161). -/
def Config.glyphAt (c : Config) (n : Nat) : Glyph :=
  if n = 32 then spaceGlyph else c.glyphs.toList.getD (n - 33) spaceGlyph

/-- The glyph drawn for a character code (R162). -/
def Config.glyphFor (c : Config) (code : Byte) : Glyph := c.glyphAt (glyphCode code)

/-- Bit `G[i][j]` of a glyph (R160). -/
def glyphBit (g : Glyph) (i j : Nat) : Bool := (g.toList.getD i 0x00#8).getLsbD j

end Sys2Proof
end

