-- ==== Sys2Proof/Machine/Operands.lean ====
section
/-! DEFINITION. The values of operands (R72). The block has immediate operands only (R20): a coordinate or an extent
is an `s16` widened to ℤ (R121), a byte operand is used as it stands. -/

namespace Sys2Proof.Machine

/-- A coordinate (`x`, `y`, `x0`, `y0`, `x1`, `y1`) as an integer (R72, R121). -/
def coord (v : S16) : Int := v.toInt

/-- An extent (`w`, `h`, `r`) as an integer (R72, R121). -/
def extent (v : S16) : Int := v.toInt

/-- The length operand `n` of DRAW_STRING, from its text (R74, R81). -/
def textLength (text : List Byte) : Nat := text.length

/-- The length of a command of format `N` (R74). -/
def lenN : Nat := 1

/-- The length of a command of format `B` (R74). -/
def lenB : Nat := 2

/-- The length of a command of format `P` (R74). -/
def lenP : Nat := 5

/-- The length of a command of format `T` (R74). -/
def lenT : Nat := 7

/-- The length of a command of format `Q` (R74). -/
def lenQ : Nat := 9

/-- The length of a command of format `G` (R74). -/
def lenG : Nat := 6

/-- The length of a command of format `S` (R74): `6 + n`. -/
def lenS (n : Nat) : Nat := 6 + n

/-- The length `len` of a command, by its format (R74, R76). -/
def commandLength : Instr → Nat
  | .init => lenN
  | .clear => lenN
  | .update => lenN
  | .displayOff => lenN
  | .displayOn => lenN
  | .sendCmd _ => lenB
  | .sendData _ => lenB
  | .setPixelOff _ _ => lenP
  | .setPixelOn _ _ => lenP
  | .drawLine _ _ _ _ => lenQ
  | .drawRect _ _ _ _ => lenQ
  | .fillRect _ _ _ _ => lenQ
  | .drawCircle _ _ _ => lenT
  | .fillCircle _ _ _ => lenT
  | .drawChar _ _ _ => lenG
  | .drawString _ _ text => lenS (textLength text)

end Sys2Proof.Machine
end

