-- ==== Sys2Proof/Machine/State.lean ====
section
/-! DEFINITION. The state of the block (R23), the command port (R53, R251), the bus environment's draws (R182), and
the reset state (R250, R251). -/

namespace Sys2Proof.Machine

/-- The framebuffer `FB` (R25, R50): byte `i` at index `i`, as the pairs of its non-zero bytes in rising index order.
An index not listed reads `0x00`, the reset value (R25, R251). -/
abbrev Memory := List Host.Cell

/-- The device link state (R26). -/
inductive Link where
  | uninit
  | active
  | sleeping
  deriving DecidableEq, Repr

/-- The power-enable line (R30): `Z` not yet driven, `ON` asserted. -/
inductive PwrEn where
  | z
  | on
  deriving DecidableEq, Repr

/-- The hardware reset line of the controller (R30): `Z` not yet driven, `RUN`, `RESET`. -/
inductive Rst where
  | z
  | run
  | reset
  deriving DecidableEq, Repr

/-- The named delays of INIT (R197, R198, R200). -/
inductive DelayName where
  | pwrSettle
  | rst1
  | rst2
  deriving DecidableEq, Repr

/-- An event of `trace` (R32). -/
inductive Event where
  /-- `Txn(bytes, ack)` (R181). -/
  | txn (bytes : List Byte) (ack : Bool)
  /-- `Probe(ack)` (R199). -/
  | probe (ack : Bool)
  /-- `BusOpen` (R201). -/
  | busOpen
  /-- `Line(pwr_en, level)` (R30). -/
  | linePwrEn (level : PwrEn)
  /-- `Line(rst, level)` (R30). -/
  | lineRst (level : Rst)
  /-- `Delay(T)` (R198). -/
  | delay (name : DelayName)
  deriving DecidableEq, Repr

/-- Why the block stops. -/
inductive Fault where
  /-- `Fault(ILLEGAL_OPCODE)` with its `info` (R221, R222). Raised by `step` in every state whose `illegal` is 1: the
  halted condition of R223 is a fault outcome. Safe: it is the stop the spec gives. -/
  | illegalOpcode (cp : Nat) (op : Byte)
  deriving DecidableEq, Repr

/-- Why the model does not run a state. -/
inductive Refusal where
  /-- The instruction has no meaning in `exec` yet; no arm raises it now. Safe. -/
  | notModelled (mnemonic : String)
  /-- Raised by `step` when `WIDTH` and `HEIGHT` are not admitted (R10: a model refuses any other configuration).
  Safe: no run of such a block is modelled. -/
  | sizeNotAdmitted
  /-- Raised by `step` when the number of hosts on the command port is not one (R63: such a configuration is refused).
  Safe for one host; a claim says nothing of several. -/
  | notOneHost
  deriving DecidableEq, Repr

/-- The state. `cfg` is the configuration, which R254 makes a parameter of the step: no operation writes it. The next
ten fields are the state record of R23. `stream` is the command port. `acks` and `draws` are the model's own: the bus
environment's oracle of R182. -/
@[ext]
structure State where
  /-- The configuration (R8, R254): a parameter carried beside the record, never written. -/
  cfg : Config
  /-- `FB` (R25). -/
  fb : Memory
  /-- `cp` (R24). -/
  cp : Nat
  /-- `link` (R26). -/
  link : Link
  /-- `init_done` (R27, R29). -/
  initDone : Bool
  /-- `init_ok` (R27, R29). -/
  initOk : Bool
  /-- `illegal`, sticky (R222, R223). -/
  illegal : Bool
  /-- `pwr_en` (R30). -/
  pwrEn : PwrEn
  /-- `rst` (R30). -/
  rst : Rst
  /-- `bus_open` (R31). -/
  busOpen : Bool
  /-- `trace`, oldest event first (R32). -/
  trace : List Event
  /-- The command port: the stream `B` of R73, every byte the host has written since reset, so that `B[cp]` is the
  next opcode byte. -/
  stream : List Byte
  /-- The draws the bus environment will answer next, oldest first (R182); after them `Config.ackDraw` answers. -/
  acks : List Bool
  /-- How many draws have been made, the argument of `Config.ackDraw`. -/
  draws : Nat
  deriving DecidableEq, Repr

/-- The state right after reset of a block of configuration `cfg` whose environment stands at `acks`, `draws` (R250,
R251). -/
def State.resetWith (cfg : Config) (acks : List Bool) (draws : Nat) : State where
  cfg := cfg
  fb := []
  cp := 0
  link := .uninit
  initDone := false
  initOk := false
  illegal := false
  pwrEn := .z
  rst := .z
  busOpen := false
  trace := []
  stream := []
  acks := acks
  draws := draws

/-- The machine right after reset: the reference size, every OPEN parameter free, no scripted draw. -/
def State.reset : State := State.resetWith Config.board [] 0

end Sys2Proof.Machine
end

