-- ==== Sys2Proof/Machine/Ops.lean ====
section
/-! DEFINITION. The named operations the meanings share: the framebuffer and its pixel accessor (R13, R50, R100), the
updates of one piece of state, the bus and the output lines (R30, R181, R198, R199), the fetch from the command port
(R75), and the one fault (R221). -/

namespace Sys2Proof.Machine

/-! The framebuffer. -/

/-- `FB[i]` (R13, R57). -/
def Memory.read : Memory → Nat → Byte
  | [], _ => 0x00#8
  | (j, w) :: m, i => if i = j then w else Memory.read m i

/-- `FB[i] <- v` (R13, R57); writing `0x00` removes the entry. -/
def Memory.write : Memory → Nat → Byte → Memory
  | [], i, v => if v = 0x00#8 then [] else [(i, v)]
  | (j, w) :: m, i, v =>
    if i < j then (if v = 0x00#8 then (j, w) :: m else (i, v) :: (j, w) :: m)
    else if i = j then (if v = 0x00#8 then m else (i, v) :: m)
    else (j, w) :: Memory.write m i v

/-- The entry list rises strictly from `lo` on and holds no `0x00`. -/
def Memory.wfFrom : Nat → Memory → Bool
  | _, [] => true
  | lo, (j, w) :: m => decide (lo ≤ j) && decide (w ≠ 0x00#8) && Memory.wfFrom (j + 1) m

/-- The canonical form of a framebuffer: indices strictly rising, no entry `0x00`. -/
def Memory.wf (m : Memory) : Bool := Memory.wfFrom 0 m

/-- Every listed index is below `n` (R54: the only indices are `0` to `N_FB - 1`). -/
def Memory.below (n : Nat) (m : Memory) : Bool := m.all fun cell => decide (cell.1 < n)

/-- A framebuffer whose every byte is `0x00` (R102). -/
def Memory.cleared : Memory := []

/-! Pixels. -/

/-- The coordinates of a pixel of the framebuffer (R50); any others are clipped (R100). -/
abbrev InFrame (c : Config) (x y : Int) : Prop := 0 ≤ x ∧ x < c.width ∧ 0 ≤ y ∧ y < c.height

/-- `pixel_index(x, y)` (R50). -/
def pixelIndex (c : Config) (x y : Nat) : Nat := x + y / 8 * c.width

/-- `pixel_bit(x, y)` (R50). -/
def pixelBit (y : Nat) : Nat := y % 8

/-- A byte with bit `k` set or cleared, the other seven unchanged (R100). -/
def setBit (b : Byte) (k : Nat) (v : Bool) : Byte :=
  if v then b ||| (0x01#8 <<< k) else b &&& (0xFF#8 ^^^ (0x01#8 <<< k))

/-- `PlotPixel(x, y, v)` (R100): the bounds test comes before any index is formed (R101). -/
def plotPixel (c : Config) (x y : Int) (v : Bool) (m : Memory) : Memory :=
  if InFrame c x y then
    m.write (pixelIndex c x.toNat y.toNat)
      (setBit (m.read (pixelIndex c x.toNat y.toNat)) (pixelBit y.toNat) v)
  else m

/-- `pixel(FB, x, y)` (R50) for coordinates in the framebuffer; false outside it, where no pixel exists. -/
def pixelAt (c : Config) (m : Memory) (x y : Int) : Bool :=
  if InFrame c x y then (m.read (pixelIndex c x.toNat y.toNat)).getLsbD (pixelBit y.toNat) else false

/-- One call of PlotPixel that a command makes. -/
structure Plot where
  x : Int
  y : Int
  v : Bool
  deriving DecidableEq, Repr

/-- The PlotPixel calls of a command, in order. -/
def plotAll (c : Config) (ps : List Plot) (m : Memory) : Memory :=
  ps.foldl (fun m p => plotPixel c p.x p.y p.v m) m

/-! Updates of one piece of state. -/

/-- `FB` as a whole (R57). -/
def State.setFb (s : State) (m : Memory) : State := { s with fb := m }

/-- `cp <- cp + len` (R24). -/
def State.advance (s : State) (len : Nat) : State := { s with cp := s.cp + len }

/-- `link <- l` (R194). -/
def State.setLink (s : State) (l : Link) : State := { s with link := l }

/-- The end of an INIT: `init_done`, `init_ok` and `link` are written together (R29). -/
def State.setInitResult (s : State) (ok : Bool) (l : Link) : State :=
  { s with initDone := true, initOk := ok, link := l }

/-- STATUS `ILLEGAL` is set (R221, R222). -/
def State.setIllegal (s : State) : State := { s with illegal := true }

/-- The power-enable line's level (R30). -/
def State.setPwrEn (s : State) (l : PwrEn) : State := { s with pwrEn := l }

/-- The reset line's level (R30). -/
def State.setRst (s : State) (l : Rst) : State := { s with rst := l }

/-- `bus_open <- 1` (R31, R201). -/
def State.setBusOpen (s : State) : State := { s with busOpen := true }

/-- An event appended to `trace` (R32). -/
def State.record (s : State) (e : Event) : State := { s with trace := s.trace ++ [e] }

/-- The command port's stream as a whole. -/
def State.setStream (s : State) (bs : List Byte) : State := { s with stream := bs }

/-- A list of PlotPixel calls on the framebuffer. -/
def State.plot (s : State) (ps : List Plot) : State := s.setFb (plotAll s.cfg ps s.fb)

/-! The bus environment's draws (R182). -/

/-- The acknowledgement the environment answers to the next transaction. -/
def State.nextAck (s : State) : Bool := s.acks.headD (Config.ackDraw s.draws)

/-- The draw is used up. -/
def State.takeAck (s : State) : State := { s with acks := s.acks.tail, draws := s.draws + 1 }

/-! The bus and the output lines. -/

/-- `BusTxn(bytes)` (R181): the event is recorded with the acknowledgement drawn for it. -/
def State.busTxn (s : State) (bytes : List Byte) : State := s.takeAck.record (.txn bytes s.nextAck)

/-- A sequence of bus transactions, each complete before the next is issued (R61). -/
def State.busTxns (s : State) (txns : List (List Byte)) : State := txns.foldl State.busTxn s

/-- The byte list of `SendCommand(b)` (R183). -/
def commandTxn (b : Byte) : List Byte := [ctrlCmd, b]

/-- The byte list of `SendData(b)` (R183). -/
def dataTxn (b : Byte) : List Byte := [ctrlData, b]

/-- `Probe()` (R199): its acknowledgement is `s.nextAck`. -/
def State.probe (s : State) : State := s.takeAck.record (.probe s.nextAck)

/-- `SetLine(pwr_en, level)` (R30). -/
def State.drivePwrEn (s : State) (l : PwrEn) : State := (s.setPwrEn l).record (.linePwrEn l)

/-- `SetLine(rst, level)` (R30). -/
def State.driveRst (s : State) (l : Rst) : State := (s.setRst l).record (.lineRst l)

/-- `Delay(T)` (R198). -/
def State.delay (s : State) (t : DelayName) : State := s.record (.delay t)

/-- `bus_open <- 1` and its event (R195, R201). -/
def State.openBus (s : State) : State := s.setBusOpen.record .busOpen

/-! Fetch, the fault and the wait. -/

/-- The bytes of the command port from `cp` on: `B[cp], B[cp + 1], …` (R75). -/
def State.pending (s : State) : List Byte := s.stream.drop s.cp

/-- `B[cp]`, the byte a fault's `info` carries (R221); 0 if no byte is present. -/
def State.opcodeByte (s : State) : Byte := s.pending.headD 0x00#8

/-- Taking the one fault, `raise Fault(ILLEGAL_OPCODE)` (R221, R222): STATUS `ILLEGAL` is set and nothing else changes.
Nothing is saved, no mode changes and `cp` stays at the illegal byte (R227). -/
def raiseIllegalOpcode (s : State) : Host.Outcome State Fault Refusal := .next s.setIllegal

/-- The halted condition (R223): a fault outcome with the `info` of R221. There is no return from it but reset (R228). -/
def haltedOutcome (s : State) : Host.Outcome State Fault Refusal :=
  .fault (.illegalOpcode s.cp s.opcodeByte)

/-- The block waits for bytes (R75 step 4): no fault, and nothing changes. -/
def waitForBytes (s : State) : Host.Outcome State Fault Refusal := .next s

/-- The configuration is not admitted (R10, R63). -/
def refuseConfig (s : State) : Host.Outcome State Fault Refusal :=
  if s.cfg.sizeAdmitted then .refused .notOneHost else .refused .sizeNotAdmitted

/-- The command port holds `bs` from `cp` on. -/
def State.placeCommand (s : State) (bs : List Byte) : State :=
  s.setStream (s.stream.take s.cp ++ List.replicate (s.cp - s.stream.length) 0x00#8 ++ bs)

end Sys2Proof.Machine
end

