-- ==== Sys2Proof/Machine/Rasterizer.lean ====
section
/-! DEFINITION. The `line_rasterizer` sub-block: DRAW_LINE, DRAW_RECT, FILL_RECT (41_rasterizer.md sections 1 to 3).
Every pixel is written with the value 1 (R122), all arithmetic is in ℤ (R121). -/

namespace Sys2Proof.Machine

/-- `HSpan(x, y, len)` (R120). -/
def hSpan (x y len : Int) : List Plot :=
  (List.range len.toNat).map fun (i : Nat) => ⟨x + (i : Int), y, true⟩

/-- `VSpan(x, y, len)` (R120). -/
def vSpan (x y len : Int) : List Plot :=
  (List.range len.toNat).map fun (i : Nat) => ⟨x, y + (i : Int), true⟩

/-- The loop of `LineDefault` (R124), `n` more columns of the major axis to go. -/
def lineLoop (steep : Bool) (dx dy ystep : Int) : Nat → Int → Int → Int → List Plot
  | 0, _, _, _ => []
  | n + 1, x, y, err =>
    (if steep then ⟨y, x, true⟩ else ⟨x, y, true⟩) ::
      (if err - dy < 0 then lineLoop steep dx dy ystep n (x + 1) (y + ystep) (err - dy + dx)
       else lineLoop steep dx dy ystep n (x + 1) y (err - dy))

/-- `LineDefault` from the point where the major coordinate does not fall (R124). -/
def lineOrdered (steep : Bool) (x0 y0 x1 y1 : Int) : List Plot :=
  lineLoop steep (x1 - x0) |y1 - y0| (if y0 < y1 then 1 else -1) (x1 - x0 + 1).toNat x0 y0 ((x1 - x0) / 2)

/-- `LineDefault` after the exchange of axes for a steep line: the ends are put in rising order (R124). -/
def lineMajor (steep : Bool) (x0 y0 x1 y1 : Int) : List Plot :=
  if x0 > x1 then lineOrdered steep x1 y1 x0 y0 else lineOrdered steep x0 y0 x1 y1

/-- `LineDefault(x0, y0, x1, y1)` (R124). -/
def lineDefault (x0 y0 x1 y1 : Int) : List Plot :=
  if |y1 - y0| > |x1 - x0| then lineMajor true y0 x0 y1 x1 else lineMajor false x0 y0 x1 y1

/-- The other pixel a line of extents `d` on its major and `e` on its minor axis may take at major offset `t` in place of
minor offset `m`: the one on the far side if the ideal line passes exactly between two, and `m` itself if it does not
(R123). -/
def otherMinor (d e t m : Int) : Int :=
  if d = 0 then m
  else if 2 * (e * t - m * d) = d then m + 1
  else if 2 * (e * t - m * d) = -d then m - 1
  else m

/-- Whether the parameter takes the other pixel at a place of a line. -/
def takesOther (r : LineRaster) (p : LineTie) : Bool := r.otherPixel != decide (p ∈ r.exceptions)

/-- The pixel taken where the default takes `p` (R123, R124). -/
def tiePlot (r : LineRaster) (x0 y0 x1 y1 : Int) (p : Plot) : Plot :=
  if |y1 - y0| > |x1 - x0| then
    if takesOther r ⟨x0, y0, x1, y1, p.y⟩ then
      { p with x := x0 + otherMinor (y1 - y0) (x1 - x0) (p.y - y0) (p.x - x0) } else p
  else
    if takesOther r ⟨x0, y0, x1, y1, p.x⟩ then
      { p with y := y0 + otherMinor (x1 - x0) (y1 - y0) (p.x - x0) (p.y - y0) } else p

/-- `LINE_RASTER(x0, y0, x1, y1)` (R123, R124, D8): the pixels of `LineDefault`, at each tie the one the parameter
takes. -/
def lineRaster (r : LineRaster) (x0 y0 x1 y1 : Int) : List Plot :=
  (lineDefault x0 y0 x1 y1).map (tiePlot r x0 y0 x1 y1)

/-- DRAW_LINE (R125). -/
def execDrawLine (x0 y0 x1 y1 : S16) (s : State) : Host.Outcome State Fault Refusal :=
  .next ((s.plot (lineRaster s.cfg.lineRaster (coord x0) (coord y0) (coord x1) (coord y1))).advance lenQ)

/-- The four edges of a rectangle, or nothing when an extent is not positive (R127, R128). -/
def rectOutline (x y w h : Int) : List Plot :=
  if w ≥ 1 ∧ h ≥ 1 then
    hSpan x y w ++ hSpan x (y + h - 1) w ++ vSpan x y h ++ vSpan (x + w - 1) y h
  else []

/-- The rows of a solid rectangle (R130); nothing when an extent is not positive (R128). -/
def rectFill (x y w h : Int) : List Plot :=
  (List.range h.toNat).flatMap fun (j : Nat) => hSpan x (y + (j : Int)) w

/-- DRAW_RECT (R129). -/
def execDrawRect (x y w h : S16) (s : State) : Host.Outcome State Fault Refusal :=
  .next ((s.plot (rectOutline (coord x) (coord y) (extent w) (extent h))).advance lenQ)

/-- FILL_RECT (R130). -/
def execFillRect (x y w h : S16) (s : State) : Host.Outcome State Fault Refusal :=
  .next ((s.plot (rectFill (coord x) (coord y) (extent w) (extent h))).advance lenQ)

end Sys2Proof.Machine
end

