-- ==== Sys2Proof/Machine/Circle.lean ====
section
/-! DEFINITION. The `circle_rasterizer` sub-block: DRAW_CIRCLE, FILL_CIRCLE (41_rasterizer.md section 4). -/

namespace Sys2Proof.Machine

/-- The midpoint circle state (R141), all in ℤ. -/
structure CircleState where
  f : Int
  ddFx : Int
  ddFy : Int
  px : Int
  py : Int
  deriving DecidableEq, Repr

/-- `CircleInit(r)` (R141). -/
def circleInit (r : Int) : CircleState := ⟨1 - r, 1, -2 * r, 0, r⟩

/-- The first half of `CircleStep()` (R141): `py`, `ddF_y` and `f` when `f >= 0`. -/
def circleLower (c : CircleState) : CircleState :=
  if c.f ≥ 0 then { c with py := c.py - 1, ddFy := c.ddFy + 2, f := c.f + (c.ddFy + 2) } else c

/-- The second half of `CircleStep()` (R141): `px`, `ddF_x` and `f`. -/
def circleRight (c : CircleState) : CircleState :=
  { c with px := c.px + 1, ddFx := c.ddFx + 2, f := c.f + (c.ddFx + 2) }

/-- `CircleStep()` (R141). -/
def circleStep (c : CircleState) : CircleState := circleRight (circleLower c)

/-- The states after each step of the loop of R142, at most `fuel` of them: the test `px < py` is made before each
step. -/
def circleLoop : Nat → CircleState → List CircleState
  | 0, _ => []
  | fuel + 1, c => if c.px < c.py then circleStep c :: circleLoop fuel (circleStep c) else []

/-- The states after each step of a circle of radius `r` (R142). The loop makes at most `r` steps, since `px` rises by
1 in each and `py` does not rise. -/
def circleSteps (r : Int) : List CircleState := circleLoop r.toNat (circleInit r)

/-- The 8-way symmetric points of one step (R143). -/
def circleOctants (x y : Int) (c : CircleState) : List Plot :=
  [ ⟨x + c.px, y + c.py, true⟩, ⟨x - c.px, y + c.py, true⟩,
    ⟨x + c.px, y - c.py, true⟩, ⟨x - c.px, y - c.py, true⟩,
    ⟨x + c.py, y + c.px, true⟩, ⟨x - c.py, y + c.px, true⟩,
    ⟨x + c.py, y - c.px, true⟩, ⟨x - c.py, y - c.px, true⟩ ]

/-- The four cardinal points (R143). -/
def circleCardinals (x y r : Int) : List Plot :=
  [⟨x, y + r, true⟩, ⟨x, y - r, true⟩, ⟨x + r, y, true⟩, ⟨x - r, y, true⟩]

/-- The pixels of a circle outline (R143), literally for every `r` (R140). -/
def circleOutline (x y r : Int) : List Plot :=
  circleCardinals x y r ++ (circleSteps r).flatMap (circleOctants x y)

/-- The vertical chords of one step (R144). -/
def circleChords (x y : Int) (c : CircleState) : List Plot :=
  vSpan (x + c.px) (y - c.py) (2 * c.py + 1) ++ vSpan (x - c.px) (y - c.py) (2 * c.py + 1) ++
  vSpan (x + c.py) (y - c.px) (2 * c.px + 1) ++ vSpan (x - c.py) (y - c.px) (2 * c.px + 1)

/-- The pixels of a filled circle (R144), literally for every `r` (R140). -/
def circleFill (x y r : Int) : List Plot :=
  vSpan x (y - r) (2 * r + 1) ++ (circleSteps r).flatMap (circleChords x y)

/-- DRAW_CIRCLE (R143). -/
def execDrawCircle (x y r : S16) (s : State) : Host.Outcome State Fault Refusal :=
  .next ((s.plot (circleOutline (coord x) (coord y) (extent r))).advance lenT)

/-- FILL_CIRCLE (R144). -/
def execFillCircle (x y r : S16) (s : State) : Host.Outcome State Fault Refusal :=
  .next ((s.plot (circleFill (coord x) (coord y) (extent r))).advance lenT)

end Sys2Proof.Machine
end

