-- ==== Sys2Proof/Machine/Font.lean ====
section
/-! DEFINITION. The `bitmap_font_renderer` sub-block: DRAW_CHAR, DRAW_STRING (42_font.md). -/

namespace Sys2Proof.Machine

/-- What one cell of a glyph plots (R163, R165): a 1-bit the value 1, a 0-bit the value 0 or nothing. -/
def cellPlot (bg : GlyphBg) (bit : Bool) (x y : Int) : List Plot :=
  match bit, bg with
  | true, _ => [⟨x, y, true⟩]
  | false, .opaqueCells => [⟨x, y, false⟩]
  | false, .transparent => []

/-- `RenderGlyph(x, y, c)` (R165): columns 0 to 4, rows 0 to 6 (R164). -/
def glyphPlots (c : Config) (x y : Int) (code : Byte) : List Plot :=
  (List.range glyphWidth).flatMap fun (i : Nat) =>
    (List.range glyphHeight).flatMap fun (j : Nat) =>
      cellPlot c.glyphBg (glyphBit (c.glyphFor code) i j) (x + (i : Int)) (y + (j : Int))

/-- The glyphs of a text from the drawing cursor on (R166); the cursor is in ℤ and is not state (R33). -/
def stringPlots (c : Config) : Int → Int → List Byte → List Plot
  | _, _, [] => []
  | cx, cy, k :: ks => glyphPlots c cx cy k ++ stringPlots c (cx + cursorAdvance) cy ks

/-- DRAW_CHAR (R165). -/
def execDrawChar (x y : S16) (c : Byte) (s : State) : Host.Outcome State Fault Refusal :=
  .next ((s.plot (glyphPlots s.cfg (coord x) (coord y) c)).advance lenG)

/-- DRAW_STRING (R166). -/
def execDrawString (x y : S16) (text : List Byte) (s : State) : Host.Outcome State Fault Refusal :=
  .next ((s.plot (stringPlots s.cfg (coord x) (coord y) text)).advance (lenS (textLength text)))

end Sys2Proof.Machine
end

