-- ==== Sys2Proof/Machine/Framebuffer.lean ====
section
/-! DEFINITION. The `monochrome_framebuffer_pixel_writer` sub-block: CLEAR, SET_PIXEL_OFF, SET_PIXEL_ON
(40_framebuffer.md). -/

namespace Sys2Proof.Machine

/-- CLEAR (R102): every framebuffer byte is `0x00`; no bus transaction. -/
def execClear (s : State) : Host.Outcome State Fault Refusal :=
  .next ((s.setFb Memory.cleared).advance lenN)

/-- SET_PIXEL_OFF (R104). -/
def execSetPixelOff (x y : S16) (s : State) : Host.Outcome State Fault Refusal :=
  .next ((s.plot [⟨coord x, coord y, false⟩]).advance lenP)

/-- SET_PIXEL_ON (R105). -/
def execSetPixelOn (x y : S16) (s : State) : Host.Outcome State Fault Refusal :=
  .next ((s.plot [⟨coord x, coord y, true⟩]).advance lenP)

end Sys2Proof.Machine
end

