-- ==== Sys2Proof/Machine/Protocol.lean ====
section
/-! DEFINITION. The `display_controller_protocol_driver` sub-block: SEND_CMD, SEND_DATA, UPDATE, DISPLAY_OFF,
DISPLAY_ON, INIT (43_protocol.md). -/

namespace Sys2Proof.Machine

/-- SEND_CMD (R185): `link` is not read and not written. -/
def execSendCmd (b : Byte) (s : State) : Host.Outcome State Fault Refusal :=
  .next ((s.busTxn (commandTxn b)).advance lenB)

/-- SEND_DATA (R186). -/
def execSendData (b : Byte) (s : State) : Host.Outcome State Fault Refusal :=
  .next ((s.busTxn (dataTxn b)).advance lenB)

/-- The six transactions that set the addressing window (R188, R190). -/
def windowTxns (c : Config) : List (List Byte) :=
  [ commandTxn c.opColAddr, commandTxn 0x00#8, commandTxn (BitVec.ofNat 8 (c.width - 1)),
    commandTxn c.opPageAddr, commandTxn 0x00#8, commandTxn (BitVec.ofNat 8 (c.pages - 1)) ]

/-- How many data chunks a flush makes: `ceil(N_FB / CHUNK)` (R189). -/
def chunkCount (c : Config) : Nat := (c.nFb + (chunkBytes - 1)) / chunkBytes

/-- The framebuffer bytes of chunk `k`: `FB[16k]` to `FB[min(16k + 16, N_FB) - 1]` (R189). -/
def chunkData (c : Config) (m : Memory) (k : Nat) : List Byte :=
  (List.range (min (k * chunkBytes + chunkBytes) c.nFb - k * chunkBytes)).map fun (j : Nat) => m.read (k * chunkBytes + j)

/-- The data transactions of a flush (R187, R189). -/
def dataTxns (c : Config) (m : Memory) : List (List Byte) :=
  (List.range (chunkCount c)).map fun (k : Nat) => ctrlData :: chunkData c m k

/-- `Flush()` (R187). -/
def State.flush (s : State) : State := s.busTxns (windowTxns s.cfg ++ dataTxns s.cfg s.fb)

/-- UPDATE (R187): it is not gated by `link`. -/
def execUpdate (s : State) : Host.Outcome State Fault Refusal := .next (s.flush.advance lenN)

/-- What DISPLAY_OFF does to the link state (R192, R194). -/
def linkAfterOff : Link → Link
  | .uninit => .uninit
  | .active => .sleeping
  | .sleeping => .sleeping

/-- What DISPLAY_ON does to the link state (R193, R194). -/
def linkAfterOn : Link → Link
  | .uninit => .uninit
  | .active => .active
  | .sleeping => .active

/-- DISPLAY_OFF (R192): the state changes whatever the acknowledgement. -/
def execDisplayOff (s : State) : Host.Outcome State Fault Refusal :=
  .next (((s.busTxn (commandTxn s.cfg.opDisplayOff)).setLink (linkAfterOff s.link)).advance lenN)

/-- DISPLAY_ON (R193). -/
def execDisplayOn (s : State) : Host.Outcome State Fault Refusal :=
  .next (((s.busTxn (commandTxn s.cfg.opDisplayOn)).setLink (linkAfterOn s.link)).advance lenN)

/-- Steps (a) and (b) of INIT and the opening of the bus in step (c) (R195, R197, R200, R201). -/
def State.bringUp (s : State) : State :=
  let a := (s.drivePwrEn .on).delay .pwrSettle
  let b := (((a.driveRst .run).delay .rst1).driveRst .reset).delay .rst2
  (b.driveRst .run).openBus

/-- INIT after a probe that is not acknowledged (R202). -/
def State.initFail (s : State) : State := s.setInitResult false .uninit

/-- Step (d) of INIT (R195, R184): one SendCommand for each byte of `INIT_SEQ`. -/
def State.configure (s : State) : State := s.busTxns (s.cfg.initSeq.map commandTxn)

/-- INIT after an acknowledged probe: steps (d) and (e) and the result (R203). -/
def State.initSucceed (s : State) : State :=
  ((s.configure.setFb Memory.cleared).flush).setInitResult true .active

/-- INIT (R195): the probe's acknowledgement alone decides the outcome. -/
def execInit (s : State) : Host.Outcome State Fault Refusal :=
  .next ((if s.bringUp.nextAck then s.bringUp.probe.initSucceed else s.bringUp.probe.initFail).advance lenN)

end Sys2Proof.Machine
end

