-- ==== Sys2Proof/Machine/Dispatch.lean ====
section
/-! DEFINITION. The dispatch: one arm per constructor of `Instr`, each one direct call of its meaning. -/

namespace Sys2Proof.Machine

def exec (i : Instr) (s : State) : Host.Outcome State Fault Refusal :=
  match i with
  | .init => Sys2Proof.Machine.execInit s
  | .clear => Sys2Proof.Machine.execClear s
  | .update => Sys2Proof.Machine.execUpdate s
  | .displayOff => Sys2Proof.Machine.execDisplayOff s
  | .displayOn => Sys2Proof.Machine.execDisplayOn s
  | .sendCmd b => Sys2Proof.Machine.execSendCmd b s
  | .sendData b => Sys2Proof.Machine.execSendData b s
  | .setPixelOff x y => Sys2Proof.Machine.execSetPixelOff x y s
  | .setPixelOn x y => Sys2Proof.Machine.execSetPixelOn x y s
  | .drawLine x0 y0 x1 y1 => Sys2Proof.Machine.execDrawLine x0 y0 x1 y1 s
  | .drawRect x y w h => Sys2Proof.Machine.execDrawRect x y w h s
  | .fillRect x y w h => Sys2Proof.Machine.execFillRect x y w h s
  | .drawCircle x y r => Sys2Proof.Machine.execDrawCircle x y r s
  | .fillCircle x y r => Sys2Proof.Machine.execFillCircle x y r s
  | .drawChar x y c => Sys2Proof.Machine.execDrawChar x y c s
  | .drawString x y text => Sys2Proof.Machine.execDrawString x y text s

end Sys2Proof.Machine
end

