-- ==== Sys2Proof/Machine/Step.lean ====
section
/-! DEFINITION. One step of the block (R4, R75): the configuration is checked (R10, R63), a halted block is a fault
outcome (R223), else the command at `cp` is decoded and run, waited for, or found illegal. -/

namespace Sys2Proof.Machine

/-- One step: the block takes one command and runs it to completion (R4, R14). -/
def step (s : State) : Host.Outcome State Fault Refusal :=
  if s.cfg.admitted then
    if s.illegal then haltedOutcome s
    else
      match decode s.pending with
      | .command i _ => exec i s
      | .incomplete => waitForBytes s
      | .illegalOpcode _ => raiseIllegalOpcode s
  else refuseConfig s

/-- The instruction word `w` of `nbits` bits, with zeros after it, in the command port where `step` fetches next. -/
def State.withFetchWord (s : State) (nbits w : Nat) : State := s.placeCommand (tableBytes nbits w)

end Sys2Proof.Machine
end

