-- ==== Sys2Proof/Machine/Flags.lean ====
section
/-! DEFINITION. The STATUS register (R27), the block's only flags (R21): it is computed from the state record, never
stored. -/

namespace Sys2Proof.Machine

/-- `LINK(link)`: bits 1 to 0 of STATUS (R27). -/
def linkCode : Link → BitVec 2
  | .uninit => 0b00#2
  | .active => 0b01#2
  | .sleeping => 0b10#2

/-- `STATUS = {BUSY, 0b00, illegal, init_ok, init_done, LINK(link)}` (R27). -/
def State.statusWith (s : State) (busy : Bool) : BitVec 8 :=
  BitVec.ofBool busy ++ 0b00#2 ++ BitVec.ofBool s.illegal ++ BitVec.ofBool s.initOk ++
    BitVec.ofBool s.initDone ++ linkCode s.link

/-- STATUS as the host reads it between commands: `BUSY = 0` (R28). -/
def State.status (s : State) : BitVec 8 := s.statusWith false

/-- STATUS as a host reads it during the command that starts in `s`: `BUSY = 1`, the other fields from before the
command (R28). -/
def State.statusDuringCommand (s : State) : BitVec 8 := s.statusWith true

end Sys2Proof.Machine
end

