-- ==== Sys2Proof/Machine/HostPort.lean ====
section
/-! DEFINITION. What the outside world does to the block and sees of it: host writes and reads (R28, R53, R223), the
reset input (R250), the bus address of an event (R54, R181), the electrical level of the output lines (R30), the
length of a delay (R198), and where a run stands (R264). -/

namespace Sys2Proof.Machine

/-- The host writes one byte into the command port: it joins the stream, or is discarded while the block is halted
(R70, R223). -/
def State.hostWrite (s : State) (b : Byte) : State :=
  if s.illegal then s else s.setStream (s.stream ++ [b])

/-- The host writes bytes in order. -/
def State.hostWrites (s : State) (bs : List Byte) : State := bs.foldl State.hostWrite s

/-- The host reads the status port: the value, and a state that has not changed (R28). -/
def State.hostReadStatus (s : State) : BitVec 8 × State := (s.status, s)

/-- The host writes the status port: the write is ignored (R28). -/
def State.hostWriteStatus (s : State) (_ : Byte) : State := s

/-- The reset input is asserted (R250): every field of the record takes its value of R251 and the command port is
empty; the configuration and the environment's draws are not the block's to reset. -/
def State.applyReset (s : State) : State := State.resetWith s.cfg s.acks s.draws

/-- The bus address an event is addressed to: `DEV_ADDR` for every transaction and probe (R54, R181, R199). -/
def Event.busAddress (c : Config) : Event → Option (BitVec 7)
  | .txn _ _ => some c.devAddr
  | .probe _ => some c.devAddr
  | .busOpen => none
  | .linePwrEn _ => none
  | .lineRst _ => none
  | .delay _ => none

/-- The electrical level of the power-enable line, true for high; none while it is not driven (R30). -/
def State.pwrEnPin (s : State) : Option Bool :=
  match s.pwrEn with
  | .z => none
  | .on => some s.cfg.pwrEnActiveLevel

/-- The electrical level of the reset line, true for high; none while it is not driven (R30). -/
def State.rstPin (s : State) : Option Bool :=
  match s.rst with
  | .z => none
  | .run => some (!s.cfg.rstActiveLevel)
  | .reset => some s.cfg.rstActiveLevel

/-- The length of a named delay (R198, R262). -/
def delayLength (c : Config) : DelayName → Nat
  | .pwrSettle => c.tPwrSettle
  | .rst1 => c.tRst1
  | .rst2 => c.tRst2

/-- Where a run stands (R264). -/
inductive Condition where
  /-- Halted by the fault (R223): a fault outcome. -/
  | halted
  /-- Waiting at a command boundary with no further byte: the run has ended. -/
  | boundary
  /-- Waiting inside an incomplete command: the run has not ended. -/
  | insideCommand
  /-- A whole command, or an illegal opcode byte, is at `cp`: the block takes a step. -/
  | ready
  deriving DecidableEq, Repr

/-- The condition of a state (R264). -/
def State.condition (s : State) : Condition :=
  if s.illegal then .halted
  else if s.pending = [] then .boundary
  else
    match decode s.pending with
    | .incomplete => .insideCommand
    | .command _ _ => .ready
    | .illegalOpcode _ => .ready

end Sys2Proof.Machine
end

