-- ==== Sys2Proof/Machine/SourceCalls.lean ====
section
/-! DEFINITION. The source's method calls as the host issues them (R82) and the split of a long string (R83, D40). -/

namespace Sys2Proof.Machine

/-- A method call of the source (R82). -/
inductive SourceCall where
  | setPixel (x y : S16) (on : Bool)
  | drawRect (x y w h : S16) (fill : Bool)
  | drawCircle (x y r : S16) (fill : Bool)
  | clear
  | clearDisplay
  | drawLine (x0 y0 x1 y1 : S16)
  | drawChar (x y : S16) (c : Byte)
  | drawString (x y : S16) (text : List Byte)
  | init
  | updateDisplay
  | displayOn
  | displayOff
  | sendCommand (b : Byte)
  | sendData (b : Byte)
  deriving DecidableEq, Repr

/-- The longest text one DRAW_STRING carries (R82). -/
def maxText : Nat := 255

/-- The pieces of a long text, at most `fuel` of them, the first starting at column `x` (R82). A piece whose start does
not fit `s16` is dropped with every piece after it (R83). -/
def splitString (y : S16) : Nat → Int → List Byte → List Instr
  | 0, _, _ => []
  | fuel + 1, x, text =>
    if x > 32767 then []
    else if text.length ≤ maxText then [.drawString (BitVec.ofInt 16 x) y text]
    else .drawString (BitVec.ofInt 16 x) y (text.take maxText) ::
      splitString y fuel (x + cursorAdvance * (maxText : Int)) (text.drop maxText)

/-- The commands a call expands to (R82). -/
def SourceCall.expand : SourceCall → List Instr
  | .setPixel x y on => if on then [.setPixelOn x y] else [.setPixelOff x y]
  | .drawRect x y w h fill => if fill then [.fillRect x y w h] else [.drawRect x y w h]
  | .drawCircle x y r fill => if fill then [.fillCircle x y r] else [.drawCircle x y r]
  | .clear => [.clear]
  | .clearDisplay => [.clear]
  | .drawLine x0 y0 x1 y1 => [.drawLine x0 y0 x1 y1]
  | .drawChar x y c => [.drawChar x y c]
  | .drawString x y text => splitString y (text.length / maxText + 1) (coord x) text
  | .init => [.init]
  | .updateDisplay => [.update]
  | .displayOn => [.displayOn]
  | .displayOff => [.displayOff]
  | .sendCommand b => [.sendCmd b]
  | .sendData b => [.sendData b]

/-- What a call returns in the state after its commands: `init()` reads STATUS bit `INIT_OK` (R82); the others return
nothing. -/
def SourceCall.result : SourceCall → State → Option Bool
  | .init, s => some (s.status.getLsbD 3)
  | .setPixel _ _ _, _ => none
  | .drawRect _ _ _ _ _, _ => none
  | .drawCircle _ _ _ _, _ => none
  | .clear, _ => none
  | .clearDisplay, _ => none
  | .drawLine _ _ _ _, _ => none
  | .drawChar _ _ _, _ => none
  | .drawString _ _ _, _ => none
  | .updateDisplay, _ => none
  | .displayOn, _ => none
  | .displayOff, _ => none
  | .sendCommand _, _ => none
  | .sendData _, _ => none

end Sys2Proof.Machine
end

