-- ==== Sys2Proof/Safety.lean ====
section
/-! DEFINITION. The terms claims are stated in: a safe run (R264), the invariant of the block, and what it means that
only some pieces of state changed. -/

namespace Sys2Proof.Machine

/-- The run of `k` steps from `s` has not stopped: no fault and no refusal. -/
def RunsOn (k : Nat) (s : State) : Prop := ∃ t, Sys2Proof.core.run k s = .next t

/-- A safe block: however many steps it takes on the bytes it has, it neither faults nor is refused (R264). -/
def Safe (s : State) : Prop := ∀ k, RunsOn k s

/-- The bring-up registers agree with each other: `INIT_OK` is 1 exactly while the link state is not `UNINIT`, an
`INIT_OK` needs an `INIT_DONE`, and the first INIT is what opens the bus and drives both lines, which rest at `ON` and
`RUN` from then on (R26, R29, R30, R31, R195). -/
def bringUpConsistent (s : State) : Bool :=
  (s.initOk == decide (s.link ≠ .uninit)) && (!s.initOk || s.initDone) && (s.busOpen == s.initDone) &&
    decide (s.pwrEn = if s.initDone then .on else .z) && decide (s.rst = if s.initDone then .run else .z)

/-- A halted block stands at an illegal opcode byte (R222). -/
def haltedAtIllegalByte (s : State) : Bool :=
  !s.illegal || (match decode s.pending with | .illegalOpcode _ => true | .command _ _ => false | .incomplete => false)

/-- The invariant of the block: an admitted configuration (R10, R63), a framebuffer in canonical form inside
`0 .. N_FB - 1` (R54), `cp` within the bytes the host has written (R24), the bring-up registers in agreement, and a halt
only at an illegal byte. -/
def State.inv (s : State) : Bool :=
  s.cfg.admitted && s.fb.wf && s.fb.below s.cfg.nFb && decide (s.cp ≤ s.stream.length) &&
    bringUpConsistent s && haltedAtIllegalByte s

/-- Nothing differs between `s` and `t` but `FB`, and `cp` is `len` further (R24, R122, R256). -/
def OnlyFbChanged (len : Nat) (s t : State) : Prop := t = { s with fb := t.fb, cp := s.cp + len }

/-- From `m` to `m'` exactly the pixels of `S` were turned on: a pixel of the framebuffer is on afterwards if and only
if it was on or is in `S`, and every byte that holds no pixel of `S` reads as before (R122). -/
def TurnsOn (c : Config) (S : Int → Int → Prop) (m m' : Memory) : Prop :=
  (∀ x y, InFrame c x y → (pixelAt c m' x y = true ↔ (pixelAt c m x y = true ∨ S x y))) ∧
  ∀ i, (∀ x y, InFrame c x y → S x y → pixelIndex c x.toNat y.toNat ≠ i) → m'.read i = m.read i

/-- The pixels a list of PlotPixel calls names. -/
def PlotsPixel (ps : List Plot) (x y : Int) : Prop := ∃ v, (⟨x, y, v⟩ : Plot) ∈ ps

/-- The envelope of R123 for a line that is not steep, on a set of pairs of a major and a minor coordinate: one pixel for
each major coordinate between the ends and none elsewhere, at most half a pixel from the ideal line (the bound R123
marks as general knowledge), and both ends. -/
def MajorEnvelope (x0 y0 x1 y1 : Int) (S : Int → Int → Prop) : Prop :=
  (∀ t, min x0 x1 ≤ t → t ≤ max x0 x1 → ∃! m, S t m) ∧
  (∀ t m, S t m → min x0 x1 ≤ t ∧ t ≤ max x0 x1 ∧
    (x1 - x0 ≠ 0 → 2 * |(m - y0) * (x1 - x0) - (y1 - y0) * (t - x0)| ≤ |x1 - x0|) ∧ (x1 - x0 = 0 → m = y0)) ∧
  S x0 y0 ∧ S x1 y1

/-- The envelope of R123 on the pixel set of the line from `(x0, y0)` to `(x1, y1)`; a steep line has x and y
exchanged. -/
def InLineEnvelope (x0 y0 x1 y1 : Int) (S : Int → Int → Prop) : Prop :=
  (|x1 - x0| ≥ |y1 - y0| → MajorEnvelope x0 y0 x1 y1 S) ∧
  (|y1 - y0| > |x1 - x0| → MajorEnvelope y0 x0 y1 x1 fun t m => S m t)

/-- A command is a drawing command: it changes `FB` alone (R107, R122, R256). -/
def isDrawing : Instr → Bool
  | .init => false
  | .clear => true
  | .update => false
  | .displayOff => false
  | .displayOn => false
  | .sendCmd _ => false
  | .sendData _ => false
  | .setPixelOff _ _ => true
  | .setPixelOn _ _ => true
  | .drawLine _ _ _ _ => true
  | .drawRect _ _ _ _ => true
  | .fillRect _ _ _ _ => true
  | .drawCircle _ _ _ => true
  | .fillCircle _ _ _ => true
  | .drawChar _ _ _ => true
  | .drawString _ _ _ => true

/-- Commands run one after the other, each from the state the one before it left (R60). -/
def execAll : List Instr → State → Host.Outcome State Fault Refusal
  | [], s => .next s
  | i :: is, s =>
    match exec i s with
    | .next t => execAll is t
    | .fault r => .fault r
    | .refused r => .refused r

/-- The acknowledgement of the `k`-th transaction from `s` on, counting from 0 (R182). -/
def State.ackAt (s : State) (k : Nat) : Bool := (s.acks.drop k).headD (Config.ackDraw (s.draws + k))

/-- The events of a sequence of transactions whose acknowledgements are the draws of `s` from the `k`-th on (R181). -/
def txnEvents (s : State) (k : Nat) (txns : List (List Byte)) : List Event :=
  txns.mapIdx fun j bytes => .txn bytes (s.ackAt (k + j))

/-- The byte lists of the transactions of a trace, in order; the acknowledgements are dropped. -/
def txnBytes : List Event → List (List Byte)
  | [] => []
  | .txn bytes _ :: es => bytes :: txnBytes es
  | .probe _ :: es => txnBytes es
  | .busOpen :: es => txnBytes es
  | .linePwrEn _ :: es => txnBytes es
  | .lineRst _ :: es => txnBytes es
  | .delay _ :: es => txnBytes es

/-- The acknowledgements recorded in a trace, in order: one for each transaction and each probe. -/
def eventAcks : List Event → List Bool
  | [] => []
  | .txn _ ack :: es => ack :: eventAcks es
  | .probe ack :: es => ack :: eventAcks es
  | .busOpen :: es => eventAcks es
  | .linePwrEn _ :: es => eventAcks es
  | .lineRst _ :: es => eventAcks es
  | .delay _ :: es => eventAcks es

/-- An event with its acknowledgement forgotten. -/
def Event.withoutAck : Event → Event
  | .txn bytes _ => .txn bytes false
  | .probe ack => .probe ack
  | .busOpen => .busOpen
  | .linePwrEn l => .linePwrEn l
  | .lineRst l => .lineRst l
  | .delay t => .delay t

/-- Two states that differ at most in the environment's draws and in the acknowledgements recorded for transactions
other than the probe. -/
def SameButAcks (s t : State) : Prop :=
  s.trace.map Event.withoutAck = t.trace.map Event.withoutAck ∧
    { s with acks := [], draws := 0, trace := [] } = { t with acks := [], draws := 0, trace := [] }

end Sys2Proof.Machine
end

