-- ==== Sys2Proof/Certificates/Slice0/Obligations.lean ====
section
/-! DEFINITION. The statements for the provers. Each docstring names the rule of spec/ it formalises. A premise
`s.fb.wf = true` is the canonical form of the framebuffer, which `Obligations.StepKeepsInvariant` shows every step
keeps. -/

open Sys2Proof Sys2Proof.Machine

/-! Reset and STATUS. -/

/-- R251: the values after reset, from whatever state the reset input finds the block in, and in `State.reset`. -/
def Obligations.ResetValues : Prop :=
  ∀ s t : State, (t = s.applyReset ∨ t = State.reset) →
    (∀ i, t.fb.read i = 0x00#8) ∧ t.link = .uninit ∧ t.cp = 0 ∧ t.initDone = false ∧ t.initOk = false ∧
    t.illegal = false ∧ t.status = 0x00#8 ∧ t.pwrEn = .z ∧ t.rst = .z ∧ t.busOpen = false ∧ t.trace = [] ∧
    t.stream = []

/-- The invariant of the block holds right after reset. -/
def Obligations.ResetMeetsInvariant : Prop := State.reset.inv = true

/-- The fields of STATUS (R27), between commands (`busy = false`) and during one. -/
def Obligations.StatusFields : Prop :=
  ∀ (s : State) (busy : Bool),
    (s.statusWith busy).extractLsb' 0 2 =
      (match s.link with | .uninit => 0b00#2 | .active => 0b01#2 | .sleeping => 0b10#2) ∧
    (s.statusWith busy).getLsbD 2 = s.initDone ∧
    (s.statusWith busy).getLsbD 3 = s.initOk ∧
    (s.statusWith busy).getLsbD 4 = s.illegal ∧
    (s.statusWith busy).getLsbD 5 = false ∧
    (s.statusWith busy).getLsbD 6 = false ∧
    (s.statusWith busy).getLsbD 7 = busy ∧
    s.status.getLsbD 7 = false

/-- Where the invariant holds STATUS has one of eight values: `00`, `04`, `0D`, `0E`, each with or without `ILLEGAL`. -/
def Obligations.StatusValues : Prop :=
  ∀ s : State, s.inv = true →
    s.status ∈ [0x00#8, 0x04#8, 0x0D#8, 0x0E#8, 0x10#8, 0x14#8, 0x1D#8, 0x1E#8]

/-! Encoding. -/

/-- Decoding an encoded command gives it back with the bytes after it, for every command and every operand. -/
def Obligations.DecodeOfEncode : Prop :=
  ∀ (i : Instr) (rest : List Byte), i.wellFormed = true → decode (encode i ++ rest) = .command i rest

/-- The other direction: what the decoder reads as a command is a well-formed one, and it is encoded by the bytes it
was read from. -/
def Obligations.EncodeOfDecode : Prop :=
  ∀ (bs : List Byte) (i : Instr) (rest : List Byte), decode bs = .command i rest →
    i.wellFormed = true ∧ encode i ++ rest = bs

/-- R76 and R77: the 16 legal opcode bytes, whatever follows them, and the 240 illegal ones. -/
def Obligations.IllegalOpcodeBytes : Prop :=
  (∀ (op : Byte) (bs : List Byte),
    (∃ op', decode (op :: bs) = .illegalOpcode op') ↔
      op ∉ [0x01#8, 0x02#8, 0x03#8, 0x04#8, 0x05#8, 0x06#8, 0x07#8, 0x10#8, 0x11#8, 0x20#8, 0x30#8, 0x31#8, 0x40#8,
        0x41#8, 0x50#8, 0x51#8]) ∧
  ((List.range 256).filter fun n => decide (decode [BitVec.ofNat 8 n] = .illegalOpcode (BitVec.ofNat 8 n))).length
    = 240

/-- R75: the decoder asks for more bytes exactly on the proper beginnings of commands. -/
def Obligations.IncompleteIsProperBeginning : Prop :=
  ∀ bs : List Byte, decode bs = .incomplete ↔
    ∃ (i : Instr) (more : List Byte), i.wellFormed = true ∧ more ≠ [] ∧ encode i = bs ++ more

/-- Words written out from R73, R74 and R76, one of each format. -/
def Obligations.SpecWordsDecode : Prop :=
  decode [0x02#8] = .command .clear [] ∧
  decode [0x06#8, 0xAE#8] = .command (.sendCmd 0xAE#8) [] ∧
  decode [0x11#8, 0xFF#8, 0xFF#8, 0x2C#8, 0x01#8] = .command (.setPixelOn (-1) 300) [] ∧
  decode [0x41#8, 0x40#8, 0x00#8, 0x20#8, 0x00#8, 0xFE#8, 0xFF#8] = .command (.fillCircle 64 32 (-2)) [] ∧
  decode [0x20#8, 0x00#8, 0x00#8, 0x00#8, 0x00#8, 0xFB#8, 0xFF#8, 0xFF#8, 0x7F#8]
    = .command (.drawLine 0 0 (-5) 32767) [] ∧
  decode [0x50#8, 0x00#8, 0x00#8, 0x00#8, 0x00#8, 0x41#8] = .command (.drawChar 0 0 0x41#8) [] ∧
  decode [0x51#8, 0x0A#8, 0x00#8, 0x14#8, 0x00#8, 0x02#8, 0x48#8, 0x69#8]
    = .command (.drawString 10 20 [0x48#8, 0x69#8]) []

/-! The step. -/

/-- R75: when the bytes at `cp` begin with a command, a step is that command's `exec`; it completes, and the next
command is the one after it. -/
def Obligations.StepRunsDecodedCommand : Prop :=
  ∀ (s : State) (i : Instr) (rest : List Byte),
    s.cfg.admitted = true → s.illegal = false → i.wellFormed = true → s.pending = encode i ++ rest →
    step s = exec i s ∧
    ∃ t, exec i s = .next t ∧ t.cp = s.cp + (encode i).length ∧ t.stream = s.stream ∧ t.pending = rest

/-- R24, R78: every command, on every state and every operand, completes; it advances `cp` by its length and leaves
the configuration, the command port and `ILLEGAL` alone. -/
def Obligations.EveryCommandCompletes : Prop :=
  ∀ (i : Instr) (s : State), ∃ t, exec i s = .next t ∧ t.cp = s.cp + (encode i).length ∧
    t.cfg = s.cfg ∧ t.stream = s.stream ∧ t.illegal = s.illegal

/-- R75 step 4, with the model's reading of "takes no step" (log entry 5): while bytes of the command at `cp` are
missing, a step changes nothing, and it is no fault. -/
def Obligations.StepWaitsForBytes : Prop :=
  ∀ (s : State) (i : Instr) (more : List Byte),
    s.cfg.admitted = true → s.illegal = false → i.wellFormed = true → more ≠ [] → s.pending ++ more = encode i →
    step s = .next s

/-- R221: raising the fault sets `ILLEGAL` and changes no other state; the block is then halted, and the fault outcome
carries `(cp, op)`. That the raise is one step and the fault outcome the next is the model's reading (log entry 6). -/
def Obligations.IllegalOpcodeRaisesFault : Prop :=
  ∀ (s : State) (op : Byte) (rest : List Byte),
    s.cfg.admitted = true → s.illegal = false → s.pending = op :: rest →
    op ∉ [0x01#8, 0x02#8, 0x03#8, 0x04#8, 0x05#8, 0x06#8, 0x07#8, 0x10#8, 0x11#8, 0x20#8, 0x30#8, 0x31#8, 0x40#8,
      0x41#8, 0x50#8, 0x51#8] →
    step s = .next { s with illegal := true } ∧
    State.status { s with illegal := true } = s.status ||| 0x10#8 ∧
    step { s with illegal := true } = .fault (.illegalOpcode s.cp op)

/-- R223: a halted block executes nothing and discards what the host writes, STATUS stays readable, and reset ends the
halt. The fault outcome in place of a step, and the bytes that stay unread, are log entries 6 and 7. -/
def Obligations.HaltIsFinal : Prop :=
  ∀ (s : State) (bs : List Byte), s.illegal = true → s.cfg.admitted = true →
    (∃ cp op, step s = .fault (.illegalOpcode cp op)) ∧ s.hostWrites bs = s ∧
    s.status.getLsbD 4 = true ∧ (∀ k t, Sys2Proof.core.run (k + 1) (s.hostWrites bs) ≠ .next t) ∧
    s.applyReset.illegal = false

/-- R222, R226, with log entry 6: a step faults in a halted block only, and the fault carries `cp` and the byte at `cp`;
no command faults once it has been decoded. In a halted state with no byte at `cp`, which no run reaches, the byte
carried is `0x00` (log entry 25). -/
def Obligations.OnlyHaltedFaults : Prop :=
  ∀ (s : State) (r : Fault), step s = .fault r → s.illegal = true ∧ r = .illegalOpcode s.cp (s.pending.headD 0x00#8)

/-- R10 and R63: exactly the configurations not admitted are refused; that `step` answers the refusal is the model's
choice (log entry 8). -/
def Obligations.OnlyInadmissibleRefused : Prop :=
  ∀ s : State,
    ((∃ r, step s = .refused r) ↔
      ¬(s.cfg.height % 8 = 0 ∧ 8 ≤ s.cfg.height ∧ s.cfg.height ≤ 256 ∧ 1 ≤ s.cfg.width ∧ s.cfg.width ≤ 256 ∧
        s.cfg.hosts = 1)) ∧
    (step s = .refused .sizeNotAdmitted ↔
      ¬(s.cfg.height % 8 = 0 ∧ 8 ≤ s.cfg.height ∧ s.cfg.height ≤ 256 ∧ 1 ≤ s.cfg.width ∧ s.cfg.width ≤ 256))

/-- Every step keeps the invariant of the block: the configuration stays admitted, the framebuffer canonical and
inside `0 .. N_FB - 1`, `cp` within the stream, the bring-up registers in agreement, a halt only at an illegal byte. -/
def Obligations.StepKeepsInvariant : Prop :=
  ∀ s t : State, s.inv = true → step s = .next t → t.inv = true

/-- A byte the host writes keeps the invariant too. -/
def Obligations.HostWriteKeepsInvariant : Prop :=
  ∀ (s : State) (b : Byte), s.inv = true → (s.hostWrite b).inv = true

/-- R75, R255, with the host writing between steps (log entry 4): bytes written behind a whole command do not change what a step on that command does. -/
def Obligations.LaterBytesDoNotMatter : Prop :=
  ∀ (s t : State) (i : Instr) (rest bs : List Byte),
    s.illegal = false → decode s.pending = .command i rest → step s = .next t →
    step (s.hostWrites bs) = .next (t.hostWrites bs)

/-- R60, R80: the bytes of a sequence of commands run as those commands in order, from every state of an admitted
block that is not halted. -/
def Obligations.StreamRunsInOrder : Prop :=
  ∀ (s : State) (is : List Instr) (rest : List Byte),
    s.cfg.admitted = true → s.illegal = false → (∀ i ∈ is, i.wellFormed = true) →
    s.pending = is.flatMap encode ++ rest →
    ∃ t, Sys2Proof.core.run is.length s = .next t ∧ execAll is s = .next t ∧ t.pending = rest

/-- R222, R264, with the wait of log entry 5: a block whose command port holds whole commands only never faults and is never refused. -/
def Obligations.WholeCommandsAreSafe : Prop :=
  ∀ (s : State) (is : List Instr),
    s.cfg.admitted = true → s.illegal = false → (∀ i ∈ is, i.wellFormed = true) →
    s.pending = is.flatMap encode → Safe s

/-! The framebuffer. -/

/-- R50, R51: where each pixel of an admitted framebuffer is stored, column by column within bands of 8 rows. R52: pixels
and the bits of the bytes correspond one to one; bit `k` of byte `i` is pixel `(i mod WIDTH, 8 * (i div WIDTH) + k)`. -/
def Obligations.PixelLayoutBijection : Prop :=
  ∀ c : Config, c.sizeAdmitted = true →
    (∀ x y : Nat, x < c.width → y < c.height →
      pixelIndex c x y = x + y / 8 * c.width ∧ pixelIndex c x y < c.nFb ∧ pixelBit y = y % 8 ∧
      ∀ m : Memory, pixelAt c m x y = (m.read (x + y / 8 * c.width)).getLsbD (y % 8)) ∧
    (∀ p x k : Nat, p < c.height / 8 → x < c.width → k < 8 →
      pixelIndex c x (8 * p + k) = p * c.width + x ∧ pixelBit (8 * p + k) = k) ∧
    ∀ i k : Nat, i < c.nFb → k < 8 → ∀ x y : Nat,
      (x < c.width ∧ y < c.height ∧ pixelIndex c x y = i ∧ pixelBit y = k) ↔
        (x = i % c.width ∧ y = 8 * (i / c.width) + k)

/-- R106: the laws of PlotPixel and CLEAR. -/
def Obligations.PlotPixelLaws : Prop :=
  ∀ (c : Config) (m : Memory) (x y : Int), m.wf = true →
    (InFrame c x y → ∀ v, pixelAt c (plotPixel c x y v m) x y = v) ∧
    (¬InFrame c x y → ∀ v, plotPixel c x y v m = m) ∧
    (∀ s : State, ∃ t, exec .clear s = .next t ∧ ∀ i, t.fb.read i = 0x00#8) ∧
    (∀ x' y' v v', (x ≠ x' ∨ y ≠ y') →
      plotPixel c x' y' v' (plotPixel c x y v m) = plotPixel c x y v (plotPixel c x' y' v' m)) ∧
    (∀ v v', plotPixel c x y v' (plotPixel c x y v m) = plotPixel c x y v' m) ∧
    (∀ v, plotPixel c x y v (plotPixel c x y v m) = plotPixel c x y v m)

/-- R102: CLEAR zeroes every byte, in `len = 1`, and changes nothing else. -/
def Obligations.ClearResult : Prop :=
  encode .clear = [0x02#8] ∧
  ∀ s : State, ∃ t, exec .clear s = .next t ∧ OnlyFbChanged 1 s t ∧ ∀ i, t.fb.read i = 0x00#8

/-- R104: SET_PIXEL_OFF clears the one bit of an in-range pixel and is a no-op out of range. -/
def Obligations.SetPixelOffResult : Prop :=
  ∀ (s : State) (x y : S16), s.fb.wf = true →
    encode (.setPixelOff x y) = 0x10#8 :: (bytesOfS16 x ++ bytesOfS16 y) ∧
    ∃ t, exec (.setPixelOff x y) s = .next t ∧ OnlyFbChanged 5 s t ∧
      (∀ px py, InFrame s.cfg px py →
        pixelAt s.cfg t.fb px py = if px = x.toInt ∧ py = y.toInt then false else pixelAt s.cfg s.fb px py) ∧
      (∀ i, (InFrame s.cfg x.toInt y.toInt → i ≠ pixelIndex s.cfg x.toInt.toNat y.toInt.toNat) →
        t.fb.read i = s.fb.read i) ∧
      (¬InFrame s.cfg x.toInt y.toInt → t.fb = s.fb)

/-- R105: SET_PIXEL_ON sets the one bit of an in-range pixel and is a no-op out of range. -/
def Obligations.SetPixelOnResult : Prop :=
  ∀ (s : State) (x y : S16), s.fb.wf = true →
    encode (.setPixelOn x y) = 0x11#8 :: (bytesOfS16 x ++ bytesOfS16 y) ∧
    ∃ t, exec (.setPixelOn x y) s = .next t ∧ OnlyFbChanged 5 s t ∧
      (∀ px py, InFrame s.cfg px py →
        pixelAt s.cfg t.fb px py = if px = x.toInt ∧ py = y.toInt then true else pixelAt s.cfg s.fb px py) ∧
      (∀ i, (InFrame s.cfg x.toInt y.toInt → i ≠ pixelIndex s.cfg x.toInt.toNat y.toInt.toNat) →
        t.fb.read i = s.fb.read i) ∧
      (¬InFrame s.cfg x.toInt y.toInt → t.fb = s.fb)

/-- R122, R256, R21: a drawing command, on every operand, changes `FB` and `cp` and nothing else. -/
def Obligations.DrawingChangesOnlyFb : Prop :=
  ∀ (i : Instr) (s : State), isDrawing i = true →
    ∃ t, exec i s = .next t ∧ OnlyFbChanged (encode i).length s t

/-- R107, R25: the commands that leave `FB` unchanged. -/
def Obligations.OtherCommandsKeepFb : Prop :=
  ∀ (i : Instr) (s : State), isDrawing i = false → (i = .init → s.nextAck = false) →
    ∃ t, exec i s = .next t ∧ t.fb = s.fb

/-! Lines and rectangles. -/

/-- R125: DRAW_LINE turns on exactly the pixels of `LINE_RASTER` that lie in the framebuffer; with the default of the
parameter they are those of `LineDefault`. -/
def Obligations.DrawLineResult : Prop :=
  ∀ (s : State) (x0 y0 x1 y1 : S16), s.fb.wf = true →
    encode (.drawLine x0 y0 x1 y1) =
      0x20#8 :: (bytesOfS16 x0 ++ bytesOfS16 y0 ++ bytesOfS16 x1 ++ bytesOfS16 y1) ∧
    ∃ t, exec (.drawLine x0 y0 x1 y1) s = .next t ∧ OnlyFbChanged 9 s t ∧
      TurnsOn s.cfg (PlotsPixel (lineRaster s.cfg.lineRaster x0.toInt y0.toInt x1.toInt y1.toInt)) s.fb t.fb ∧
      (s.cfg.lineRaster = LineRaster.ofDefault →
        TurnsOn s.cfg (PlotsPixel (lineDefault x0.toInt y0.toInt x1.toInt y1.toInt)) s.fb t.fb)

/-- R123: the envelope of a line, for every value of `LINE_RASTER` and all integer ends, and the number of its pixels.
The half-pixel bound is marked in R123 as general knowledge. -/
def Obligations.LineEnvelope : Prop :=
  ∀ (r : LineRaster) (x0 y0 x1 y1 : Int),
    InLineEnvelope x0 y0 x1 y1 (PlotsPixel (lineRaster r x0 y0 x1 y1)) ∧
    ((lineRaster r x0 y0 x1 y1).length : Int) = max |x1 - x0| |y1 - y0| + 1

/-- R123, R124, D8: the parameter is open within the envelope. Whatever pixel sets of the envelope are given, one for
each line with `s16` ends, some value of `LINE_RASTER` has exactly them (its form as data is log entry 26). -/
def Obligations.LineRasterIsOpen : Prop :=
  ∀ S : S16 → S16 → S16 → S16 → Int → Int → Prop,
    (∀ x0 y0 x1 y1, InLineEnvelope x0.toInt y0.toInt x1.toInt y1.toInt (S x0 y0 x1 y1)) →
    ∃ r : LineRaster, ∀ x0 y0 x1 y1 px py,
      PlotsPixel (lineRaster r x0.toInt y0.toInt x1.toInt y1.toInt) px py ↔ S x0 y0 x1 y1 px py

/-- R126: the default line is symmetric, and the source's two examples. R124: a line with a tie, which tells the default
from another form; R124 marks the default as general knowledge (log entry 10). -/
def Obligations.LineSymmetric : Prop :=
  (∀ x0 y0 x1 y1 px py : Int,
    PlotsPixel (lineDefault x0 y0 x1 y1) px py ↔ PlotsPixel (lineDefault x1 y1 x0 y0) px py) ∧
  (∀ px py : Int, PlotsPixel (lineDefault 0 0 5 5) px py ↔ (0 ≤ px ∧ px ≤ 5 ∧ py = px)) ∧
  (∀ px py : Int, PlotsPixel (lineDefault 0 0 5 0) px py ↔ (0 ≤ px ∧ px ≤ 5 ∧ py = 0)) ∧
  (∀ px py : Int, PlotsPixel (lineDefault 0 0 4 1) px py ↔
    ((0 ≤ px ∧ px ≤ 2 ∧ py = 0) ∨ (3 ≤ px ∧ px ≤ 4 ∧ py = 1)))

/-- R129, R127, R128: DRAW_RECT turns on exactly the boundary of the rectangle. -/
def Obligations.DrawRectResult : Prop :=
  ∀ (s : State) (x y w h : S16), s.fb.wf = true →
    encode (.drawRect x y w h) = 0x30#8 :: (bytesOfS16 x ++ bytesOfS16 y ++ bytesOfS16 w ++ bytesOfS16 h) ∧
    ∃ t, exec (.drawRect x y w h) s = .next t ∧ OnlyFbChanged 9 s t ∧
      TurnsOn s.cfg
        (fun px py => x.toInt ≤ px ∧ px < x.toInt + w.toInt ∧ y.toInt ≤ py ∧ py < y.toInt + h.toInt ∧
          (px = x.toInt ∨ px = x.toInt + w.toInt - 1 ∨ py = y.toInt ∨ py = y.toInt + h.toInt - 1)) s.fb t.fb ∧
      ((w.toInt ≤ 0 ∨ h.toInt ≤ 0) → t.fb = s.fb)

/-- R130, R128: FILL_RECT turns on exactly the solid rectangle. -/
def Obligations.FillRectResult : Prop :=
  ∀ (s : State) (x y w h : S16), s.fb.wf = true →
    encode (.fillRect x y w h) = 0x31#8 :: (bytesOfS16 x ++ bytesOfS16 y ++ bytesOfS16 w ++ bytesOfS16 h) ∧
    ∃ t, exec (.fillRect x y w h) s = .next t ∧ OnlyFbChanged 9 s t ∧
      TurnsOn s.cfg
        (fun px py => x.toInt ≤ px ∧ px < x.toInt + w.toInt ∧ y.toInt ≤ py ∧ py < y.toInt + h.toInt) s.fb t.fb ∧
      ((w.toInt ≤ 0 ∨ h.toInt ≤ 0) → t.fb = s.fb)

/-- R131: the outline of a rectangle is part of the solid one, and all of it when an extent is at most 2. -/
def Obligations.OutlineWithinFill : Prop :=
  ∀ x y w h px py : Int,
    (PlotsPixel (rectOutline x y w h) px py → PlotsPixel (rectFill x y w h) px py) ∧
    ((w ≤ 2 ∨ h ≤ 2) → PlotsPixel (rectFill x y w h) px py → PlotsPixel (rectOutline x y w h) px py)

/-! Circles. -/

/-- R141, R142: the states of the circle loop are those of `CircleStep` from `CircleInit`, the test `px < py` made
before each; the loop runs to its end, and for `r >= 1` it ends with `px - py` 0 or 1 (R146). -/
def Obligations.CircleLoopFollowsRule : Prop :=
  ∀ r : Int,
    (r ≤ 0 → circleSteps r = []) ∧
    (∀ (k : Nat) (d : CircleState), (circleSteps r)[k]? = some d →
      ∃ c : CircleState,
        (if k = 0 then some ⟨1 - r, 1, -2 * r, 0, r⟩ else (circleSteps r)[k - 1]?) = some c ∧ c.px < c.py ∧
        d.px = c.px + 1 ∧ d.ddFx = c.ddFx + 2 ∧
        d.py = (if c.f ≥ 0 then c.py - 1 else c.py) ∧
        d.ddFy = (if c.f ≥ 0 then c.ddFy + 2 else c.ddFy) ∧
        d.f = (if c.f ≥ 0 then c.f + (c.ddFy + 2) else c.f) + (c.ddFx + 2)) ∧
    (1 ≤ r → ∃ c, (circleSteps r).getLast? = some c ∧ (c.px - c.py = 0 ∨ c.px - c.py = 1))

/-- R146: the bounds on the circle's arithmetic for every `s16` radius. -/
def Obligations.CircleArithmeticBound : Prop :=
  ∀ (r : S16) (c : CircleState), (c = circleInit r.toInt ∨ c ∈ circleSteps r.toInt) →
    |c.f| ≤ 65536 ∧ |c.ddFx| ≤ 65536 ∧ |c.ddFy| ≤ 65536 ∧
    ∀ x : S16, |x.toInt + c.px| ≤ 65536 ∧ |x.toInt - c.px| ≤ 65536 ∧ |x.toInt + c.py| ≤ 65536 ∧
      |x.toInt - c.py| ≤ 65536

/-- R143, R140: DRAW_CIRCLE turns on exactly the four cardinal points and the octant points of each step. -/
def Obligations.DrawCircleResult : Prop :=
  ∀ (s : State) (x y r : S16), s.fb.wf = true →
    encode (.drawCircle x y r) = 0x40#8 :: (bytesOfS16 x ++ bytesOfS16 y ++ bytesOfS16 r) ∧
    ∃ t, exec (.drawCircle x y r) s = .next t ∧ OnlyFbChanged 7 s t ∧
      TurnsOn s.cfg
        (fun px py =>
          (px = x.toInt ∧ (py = y.toInt + r.toInt ∨ py = y.toInt - r.toInt)) ∨
          (py = y.toInt ∧ (px = x.toInt + r.toInt ∨ px = x.toInt - r.toInt)) ∨
          ∃ c ∈ circleSteps r.toInt,
            ((px = x.toInt + c.px ∨ px = x.toInt - c.px) ∧ (py = y.toInt + c.py ∨ py = y.toInt - c.py)) ∨
            ((px = x.toInt + c.py ∨ px = x.toInt - c.py) ∧ (py = y.toInt + c.px ∨ py = y.toInt - c.px)))
        s.fb t.fb

/-- R144, R140: FILL_CIRCLE turns on exactly the diameter and the vertical chords of each step. -/
def Obligations.FillCircleResult : Prop :=
  ∀ (s : State) (x y r : S16), s.fb.wf = true →
    encode (.fillCircle x y r) = 0x41#8 :: (bytesOfS16 x ++ bytesOfS16 y ++ bytesOfS16 r) ∧
    ∃ t, exec (.fillCircle x y r) s = .next t ∧ OnlyFbChanged 7 s t ∧
      TurnsOn s.cfg
        (fun px py =>
          (px = x.toInt ∧ y.toInt - r.toInt ≤ py ∧ py ≤ y.toInt + r.toInt) ∨
          ∃ c ∈ circleSteps r.toInt,
            ((px = x.toInt + c.px ∨ px = x.toInt - c.px) ∧ y.toInt - c.py ≤ py ∧ py ≤ y.toInt + c.py) ∨
            ((px = x.toInt + c.py ∨ px = x.toInt - c.py) ∧ y.toInt - c.px ≤ py ∧ py ≤ y.toInt + c.px))
        s.fb t.fb

/-- R145, for every radius `r >= 0`: the filled circle contains the outline, and it is the outline together with, in each
column, every row between two pixels of the outline. -/
def Obligations.DiskContainsOutline : Prop :=
  ∀ x y r px py : Int, 0 ≤ r →
    (PlotsPixel (circleOutline x y r) px py → PlotsPixel (circleFill x y r) px py) ∧
    (PlotsPixel (circleFill x y r) px py ↔
      ∃ top bottom : Int, PlotsPixel (circleOutline x y r) px top ∧ PlotsPixel (circleOutline x y r) px bottom ∧
        top ≤ py ∧ py ≤ bottom)

/-! The font. -/

/-- R165, R163, R164: DRAW_CHAR draws the 5 by 7 cells of the glyph and touches nothing else. -/
def Obligations.DrawCharResult : Prop :=
  ∀ (s : State) (x y : S16) (c : Byte), s.fb.wf = true →
    encode (.drawChar x y c) = 0x50#8 :: (bytesOfS16 x ++ bytesOfS16 y ++ [c]) ∧
    ∃ t, exec (.drawChar x y c) s = .next t ∧ OnlyFbChanged 6 s t ∧
      (∀ px py, InFrame s.cfg px py →
        pixelAt s.cfg t.fb px py =
          if x.toInt ≤ px ∧ px < x.toInt + 5 ∧ y.toInt ≤ py ∧ py < y.toInt + 7 then
            glyphBit (s.cfg.glyphFor c) (px - x.toInt).toNat (py - y.toInt).toNat ||
              (decide (s.cfg.glyphBg = .transparent) && pixelAt s.cfg s.fb px py)
          else pixelAt s.cfg s.fb px py) ∧
      ∀ i, (∀ px py, InFrame s.cfg px py → x.toInt ≤ px → px < x.toInt + 5 → y.toInt ≤ py → py < y.toInt + 7 →
        pixelIndex s.cfg px.toNat py.toNat ≠ i) → t.fb.read i = s.fb.read i

/-- R160: bit `j` of column byte `i` of a glyph is its pixel in column `i`, row `j`. R162: the glyph of a code from 33 to
126 is the table's entry at the code's index; the space (R161) and every code outside 32 to 126 draw the blank glyph, in
DRAW_CHAR and in DRAW_STRING alike. -/
def Obligations.CodesAreSubstituted : Prop :=
  (∀ (g : Glyph) (i j : Nat) (h : i < 5), j < 7 → glyphBit g i j = g[i].getLsbD j) ∧
  (∀ (c : Config) (k : Byte),
    (∀ h : 33 ≤ k.toNat ∧ k.toNat ≤ 126, c.glyphFor k = c.glyphs[k.toNat - 33]'(by omega)) ∧
    (¬(33 ≤ k.toNat ∧ k.toNat ≤ 126) → c.glyphFor k = c.glyphFor 0x20#8 ∧ ∀ i j, glyphBit (c.glyphFor k) i j = false)) ∧
  ∀ (s : State) (x y : S16) (c : Byte) (text : List Byte),
    (¬(32 ≤ c.toNat ∧ c.toNat ≤ 126) → exec (.drawChar x y c) s = exec (.drawChar x y 0x20#8) s) ∧
    exec (.drawString x y text) s =
      exec (.drawString x y
        (text.map fun k => if 32 ≤ k.toNat ∧ k.toNat ≤ 126 then k else 0x20#8)) s

/-- R166: DRAW_STRING draws the glyph of character `k` at `x + 6k`, leaves the spacing columns alone, and does not
wrap. -/
def Obligations.DrawStringResult : Prop :=
  ∀ (s : State) (x y : S16) (text : List Byte), s.fb.wf = true →
    encode (.drawString x y text) =
      0x51#8 :: (bytesOfS16 x ++ bytesOfS16 y ++ BitVec.ofNat 8 text.length :: text) ∧
    ∃ t, exec (.drawString x y text) s = .next t ∧ OnlyFbChanged (6 + text.length) s t ∧
      (∀ px py, InFrame s.cfg px py →
        pixelAt s.cfg t.fb px py =
          if x.toInt ≤ px ∧ (px - x.toInt) % 6 < 5 ∧ px < x.toInt + 6 * text.length ∧
              y.toInt ≤ py ∧ py < y.toInt + 7 then
            glyphBit (s.cfg.glyphFor (text.getD ((px - x.toInt) / 6).toNat 0x20#8)) ((px - x.toInt) % 6).toNat
                (py - y.toInt).toNat ||
              (decide (s.cfg.glyphBg = .transparent) && pixelAt s.cfg s.fb px py)
          else pixelAt s.cfg s.fb px py) ∧
      ∀ i, (∀ px py, InFrame s.cfg px py → x.toInt ≤ px → (px - x.toInt) % 6 < 5 →
        px < x.toInt + 6 * text.length → y.toInt ≤ py → py < y.toInt + 7 →
        pixelIndex s.cfg px.toNat py.toNat ≠ i) → t.fb.read i = s.fb.read i

/-- R167 (a): DRAW_STRING has the effect of one DRAW_CHAR per character, at `x + 6k`, in order. -/
def Obligations.StringIsItsCharacters : Prop :=
  ∀ (s : State) (x y : S16) (text : List Byte), x.toInt + 6 * ((text.length : Int) - 1) ≤ 32767 →
    ∃ t u, exec (.drawString x y text) s = .next t ∧
      execAll (text.mapIdx fun k c => .drawChar (BitVec.ofInt 16 (x.toInt + 6 * (k : Int))) y c) s = .next u ∧
      t = { u with cp := s.cp + 6 + text.length }

/-- R82, R83: a text of any length, split as the host splits it, draws the pixels one call would. -/
def Obligations.SplitStringDrawsTheSame : Prop :=
  ∀ (s : State) (x y : S16) (text : List Byte), s.cfg.sizeAdmitted = true →
    ∃ t, execAll (SourceCall.drawString x y text).expand s = .next t ∧
      (∀ i ∈ (SourceCall.drawString x y text).expand, i.wellFormed = true) ∧
      t.fb = plotAll s.cfg (stringPlots s.cfg x.toInt y.toInt text) s.fb

/-! The controller protocol. -/

/-- R185 and R186: SEND_CMD and SEND_DATA make one two-byte transaction each, in every link state, whatever its
acknowledgement, and change nothing else. `acks` and `draws` are the model's own oracle (log entry 3); nothing is said
of them here. -/
def Obligations.SendResult : Prop :=
  ∀ (s : State) (b : Byte),
    (encode (.sendCmd b) = [0x06#8, b] ∧
      ∃ t, exec (.sendCmd b) s = .next t ∧
        t = { s with
          cp := s.cp + 2
          trace := s.trace ++ [.txn [0x80#8, b] (s.ackAt 0)]
          acks := t.acks
          draws := t.draws }) ∧
    (encode (.sendData b) = [0x07#8, b] ∧
      ∃ t, exec (.sendData b) s = .next t ∧
        t = { s with
          cp := s.cp + 2
          trace := s.trace ++ [.txn [0x40#8, b] (s.ackAt 0)]
          acks := t.acks
          draws := t.draws })

/-- R192: DISPLAY_OFF sends the display-off byte and puts an `ACTIVE` link to sleep, whatever the acknowledgement. -/
def Obligations.DisplayOffResult : Prop :=
  encode .displayOff = [0x04#8] ∧
  ∀ s : State, ∃ t, exec .displayOff s = .next t ∧
    t = { s with
      cp := s.cp + 1
      link := if s.link = .active then .sleeping else s.link
      trace := s.trace ++ [.txn [0x80#8, s.cfg.opDisplayOff] (s.ackAt 0)]
      acks := t.acks
      draws := t.draws }

/-- R193: DISPLAY_ON sends the display-on byte and nothing else, and wakes a `SLEEPING` link. -/
def Obligations.DisplayOnResult : Prop :=
  encode .displayOn = [0x05#8] ∧
  ∀ s : State, ∃ t, exec .displayOn s = .next t ∧
    t = { s with
      cp := s.cp + 1
      link := if s.link = .sleeping then .active else s.link
      trace := s.trace ++ [.txn [0x80#8, s.cfg.opDisplayOn] (s.ackAt 0)]
      acks := t.acks
      draws := t.draws }

/-- R194: the table of the link state, over all commands; the probe's acknowledgement is the next draw. -/
def Obligations.LinkStateTable : Prop :=
  ∀ (i : Instr) (s : State), ∃ t, exec i s = .next t ∧
    (i = .init → t.link = if s.ackAt 0 then .active else .uninit) ∧
    (i = .displayOff → t.link = match s.link with | .uninit => .uninit | .active => .sleeping | .sleeping => .sleeping) ∧
    (i = .displayOn → t.link = match s.link with | .uninit => .uninit | .active => .active | .sleeping => .active) ∧
    (i ≠ .init → i ≠ .displayOff → i ≠ .displayOn → t.link = s.link)

/-- R187: UPDATE sends the six window transactions (R188, R190), then the data chunks, in every link state, and changes
nothing but `cp` and the trace. -/
def Obligations.UpdateResult : Prop :=
  encode .update = [0x03#8] ∧
  ∀ s : State, ∃ t, exec .update s = .next t ∧
    t = { s with
      cp := s.cp + 1
      trace := s.trace ++ txnEvents s 0
        ([[0x80#8, s.cfg.opColAddr], [0x80#8, 0x00#8], [0x80#8, BitVec.ofNat 8 (s.cfg.width - 1)],
          [0x80#8, s.cfg.opPageAddr], [0x80#8, 0x00#8], [0x80#8, BitVec.ofNat 8 (s.cfg.height / 8 - 1)]] ++
          dataTxns s.cfg s.fb)
      acks := t.acks
      draws := t.draws }

/-- R189: the data stream of a flush: `ceil(N_FB / 16)` transactions, each `0x40` and 16 bytes, the last truncated, and
every framebuffer byte once, in index order. -/
def Obligations.DataStream : Prop :=
  ∀ (c : Config) (m : Memory),
    ((dataTxns c m).length = (c.nFb + 15) / 16) ∧
    (∀ k l, (dataTxns c m)[k]? = some l →
      l.head? = some 0x40#8 ∧ 1 ≤ l.tail.length ∧ l.tail.length ≤ 16 ∧
      (k + 1 < (c.nFb + 15) / 16 → l.tail.length = 16) ∧
      (k + 1 = (c.nFb + 15) / 16 → l.tail.length = c.nFb - 16 * ((c.nFb + 15) / 16 - 1)) ∧
      ∀ j, j < l.tail.length → l.tail[j]? = some (m.read (16 * k + j))) ∧
    ((dataTxns c m).map List.tail).flatten = (List.range c.nFb).map m.read

/-- R191: UPDATE makes exactly `6 + ceil(N_FB / 16)` transactions and sends exactly `N_FB` framebuffer bytes. -/
def Obligations.UpdateCounts : Prop :=
  ∀ s : State, ∃ t evs, exec .update s = .next t ∧ t.trace = s.trace ++ evs ∧
    evs.length = 6 + (s.cfg.nFb + 15) / 16 ∧ (txnBytes evs).length = 6 + (s.cfg.nFb + 15) / 16 ∧
    (((txnBytes evs).filter fun l => l.head? == some 0x40#8).map fun l => l.length - 1).sum = s.cfg.nFb

/-- R196: `INIT_SEQ` is the concatenation, in this order, of its 17 steps, each the byte list of its parameter with the
bytes the source fixes (the shapes of the parameters as data are log entry 12). -/
def Obligations.InitSequenceSteps : Prop :=
  ∀ c : Config, ∃ steps : List (List Byte), steps.length = 17 ∧ c.initSeq = steps.flatten ∧
    steps[0]? = some [c.opDisplayOff] ∧
    steps[1]? = some [c.initClkDiv.1, c.initClkDiv.2] ∧
    steps[2]? = some (c.initMux ++ [BitVec.ofNat 8 (c.height - 1)]) ∧
    steps[3]? = some (c.initOffset ++ [0x00#8]) ∧
    steps[4]? = some c.initStartLine ∧
    steps[5]? = some [c.initChargePump.1, c.initChargePump.2] ∧
    steps[6]? = some [c.initAddrMode.1, c.initAddrMode.2] ∧
    steps[7]? = some c.initSegRemap ∧
    steps[8]? = some c.initComScan ∧
    steps[9]? = some [c.initComPins.1, c.initComPins.2] ∧
    steps[10]? = some [c.initContrast.1, c.initContrast.2] ∧
    steps[11]? = some [c.initPrecharge.1, c.initPrecharge.2] ∧
    steps[12]? = some [c.initVcom.1, c.initVcom.2] ∧
    steps[13]? = some c.initResume ∧
    steps[14]? = some c.initNormal ∧
    steps[15]? = some c.initNoScroll ∧
    steps[16]? = some [c.opDisplayOn]

/-- R202: INIT whose probe is not acknowledged, from every state: the bring-up of R195 up to the probe, the failure
result, and nothing else. -/
def Obligations.InitProbeFails : Prop :=
  ∀ s : State, s.ackAt 0 = false → ∃ t, exec .init s = .next t ∧
    t = { s with
      cp := s.cp + 1
      link := .uninit
      initDone := true
      initOk := false
      pwrEn := .on
      rst := .run
      busOpen := true
      trace := s.trace ++ [.linePwrEn .on, .delay .pwrSettle, .lineRst .run, .delay .rst1, .lineRst .reset,
        .delay .rst2, .lineRst .run, .busOpen, .probe false]
      acks := t.acks
      draws := t.draws }

/-- R203: INIT whose probe is acknowledged, from every state: the bring-up of R195, the init sequence, the cleared
framebuffer, its flush, and the success result. -/
def Obligations.InitProbeSucceeds : Prop :=
  ∀ s : State, s.ackAt 0 = true → ∃ (t : State) (txns : List (List Byte)),
    exec .init s = .next t ∧
    txns = s.cfg.initSeq.map (fun b => [0x80#8, b]) ++
      [[0x80#8, s.cfg.opColAddr], [0x80#8, 0x00#8], [0x80#8, BitVec.ofNat 8 (s.cfg.width - 1)],
        [0x80#8, s.cfg.opPageAddr], [0x80#8, 0x00#8], [0x80#8, BitVec.ofNat 8 (s.cfg.height / 8 - 1)]] ++
      (dataTxns s.cfg []) ∧
    (∀ i, t.fb.read i = 0x00#8) ∧
    t = { s with
      fb := t.fb
      cp := s.cp + 1
      link := .active
      initDone := true
      initOk := true
      pwrEn := .on
      rst := .run
      busOpen := true
      trace := s.trace ++ [.linePwrEn .on, .delay .pwrSettle, .lineRst .run, .delay .rst1, .lineRst .reset,
        .delay .rst2, .lineRst .run, .busOpen, .probe true] ++ txnEvents s 1 txns
      acks := t.acks
      draws := t.draws }

/-- R205: how many events an INIT appends. -/
def Obligations.InitEventCount : Prop :=
  ∀ s : State, ∃ t evs, exec .init s = .next t ∧ t.trace = s.trace ++ evs ∧
    evs.length = if s.ackAt 0 then 7 + 2 + s.cfg.initSeq.length + 6 + (s.cfg.nFb + 15) / 16 else 9

/-- R182: the acknowledgements of transactions other than the probe decide nothing: two runs of a command from states
that differ in the environment's draws alone end in states that differ in the draws and the recorded acknowledgements
alone, provided the probe of an INIT is answered alike. -/
def Obligations.AcksDecideNothingElse : Prop :=
  ∀ (i : Instr) (s : State) (acks : List Bool) (draws : Nat),
    (i = .init → s.ackAt 0 = State.ackAt { s with acks := acks, draws := draws } 0) →
    ∃ t u, exec i s = .next t ∧ exec i { s with acks := acks, draws := draws } = .next u ∧ SameButAcks t u

/-- R180, R32: `trace` is append-only, and every transaction appended begins with one of the two control bytes. -/
def Obligations.TraceIsAppendOnly : Prop :=
  ∀ (i : Instr) (s : State), ∃ t evs, exec i s = .next t ∧ t.trace = s.trace ++ evs ∧
    ∀ bytes ack, Event.txn bytes ack ∈ evs → bytes.head? = some 0x80#8 ∨ bytes.head? = some 0x40#8

/-- R29: INIT writes `init_done`, `init_ok` and `link` together; no other command writes `init_done` or `init_ok`, and
of the three DISPLAY_ON and DISPLAY_OFF write `link` only. R30, R31: only INIT drives the lines and opens the bus. -/
def Obligations.OnlyInitWritesBringUp : Prop :=
  (∀ s : State, ∃ t, exec .init s = .next t ∧ t.initDone = true ∧ t.initOk = s.ackAt 0 ∧
    t.link = if s.ackAt 0 then .active else .uninit) ∧
  ∀ (i : Instr) (s : State), i ≠ .init → ∃ t, exec i s = .next t ∧
    t.initDone = s.initDone ∧ t.initOk = s.initOk ∧ t.pwrEn = s.pwrEn ∧ t.rst = s.rst ∧ t.busOpen = s.busOpen

/-- The acknowledgements a command records are the environment's draws in order, one for each transaction and probe,
and the next command goes on from there. The oracle is the model's form of the free draws of R181 and R182 (log entry
3). -/
def Obligations.DrawsAreTakenInOrder : Prop :=
  ∀ (i : Instr) (s : State), ∃ t evs, exec i s = .next t ∧ t.trace = s.trace ++ evs ∧
    eventAcks evs = (List.range (eventAcks evs).length).map s.ackAt ∧
    ∀ k, t.ackAt k = s.ackAt ((eventAcks evs).length + k)
end

