-- ==== Sys2Proof/Laws/State.lean ====
section
/-! SUPPORT. One lemma per field per update of State (Machine/Ops.lean), each true by rfl: what an update writes, and
that it leaves every other field alone. -/

namespace Sys2Proof.Machine

variable (s : State)

/-! `State.setFb`. -/

@[simp] theorem State.setFb_cfg (m : Memory) : (s.setFb m).cfg = s.cfg := rfl
@[simp] theorem State.setFb_fb (m : Memory) : (s.setFb m).fb = m := rfl
@[simp] theorem State.setFb_cp (m : Memory) : (s.setFb m).cp = s.cp := rfl
@[simp] theorem State.setFb_link (m : Memory) : (s.setFb m).link = s.link := rfl
@[simp] theorem State.setFb_initDone (m : Memory) : (s.setFb m).initDone = s.initDone := rfl
@[simp] theorem State.setFb_initOk (m : Memory) : (s.setFb m).initOk = s.initOk := rfl
@[simp] theorem State.setFb_illegal (m : Memory) : (s.setFb m).illegal = s.illegal := rfl
@[simp] theorem State.setFb_pwrEn (m : Memory) : (s.setFb m).pwrEn = s.pwrEn := rfl
@[simp] theorem State.setFb_rst (m : Memory) : (s.setFb m).rst = s.rst := rfl
@[simp] theorem State.setFb_busOpen (m : Memory) : (s.setFb m).busOpen = s.busOpen := rfl
@[simp] theorem State.setFb_trace (m : Memory) : (s.setFb m).trace = s.trace := rfl
@[simp] theorem State.setFb_stream (m : Memory) : (s.setFb m).stream = s.stream := rfl
@[simp] theorem State.setFb_acks (m : Memory) : (s.setFb m).acks = s.acks := rfl
@[simp] theorem State.setFb_draws (m : Memory) : (s.setFb m).draws = s.draws := rfl

/-! `State.advance`. -/

@[simp] theorem State.advance_cfg (n : Nat) : (s.advance n).cfg = s.cfg := rfl
@[simp] theorem State.advance_fb (n : Nat) : (s.advance n).fb = s.fb := rfl
@[simp] theorem State.advance_cp (n : Nat) : (s.advance n).cp = s.cp + n := rfl
@[simp] theorem State.advance_link (n : Nat) : (s.advance n).link = s.link := rfl
@[simp] theorem State.advance_initDone (n : Nat) : (s.advance n).initDone = s.initDone := rfl
@[simp] theorem State.advance_initOk (n : Nat) : (s.advance n).initOk = s.initOk := rfl
@[simp] theorem State.advance_illegal (n : Nat) : (s.advance n).illegal = s.illegal := rfl
@[simp] theorem State.advance_pwrEn (n : Nat) : (s.advance n).pwrEn = s.pwrEn := rfl
@[simp] theorem State.advance_rst (n : Nat) : (s.advance n).rst = s.rst := rfl
@[simp] theorem State.advance_busOpen (n : Nat) : (s.advance n).busOpen = s.busOpen := rfl
@[simp] theorem State.advance_trace (n : Nat) : (s.advance n).trace = s.trace := rfl
@[simp] theorem State.advance_stream (n : Nat) : (s.advance n).stream = s.stream := rfl
@[simp] theorem State.advance_acks (n : Nat) : (s.advance n).acks = s.acks := rfl
@[simp] theorem State.advance_draws (n : Nat) : (s.advance n).draws = s.draws := rfl

/-! `State.setLink`. -/

@[simp] theorem State.setLink_cfg (l : Link) : (s.setLink l).cfg = s.cfg := rfl
@[simp] theorem State.setLink_fb (l : Link) : (s.setLink l).fb = s.fb := rfl
@[simp] theorem State.setLink_cp (l : Link) : (s.setLink l).cp = s.cp := rfl
@[simp] theorem State.setLink_link (l : Link) : (s.setLink l).link = l := rfl
@[simp] theorem State.setLink_initDone (l : Link) : (s.setLink l).initDone = s.initDone := rfl
@[simp] theorem State.setLink_initOk (l : Link) : (s.setLink l).initOk = s.initOk := rfl
@[simp] theorem State.setLink_illegal (l : Link) : (s.setLink l).illegal = s.illegal := rfl
@[simp] theorem State.setLink_pwrEn (l : Link) : (s.setLink l).pwrEn = s.pwrEn := rfl
@[simp] theorem State.setLink_rst (l : Link) : (s.setLink l).rst = s.rst := rfl
@[simp] theorem State.setLink_busOpen (l : Link) : (s.setLink l).busOpen = s.busOpen := rfl
@[simp] theorem State.setLink_trace (l : Link) : (s.setLink l).trace = s.trace := rfl
@[simp] theorem State.setLink_stream (l : Link) : (s.setLink l).stream = s.stream := rfl
@[simp] theorem State.setLink_acks (l : Link) : (s.setLink l).acks = s.acks := rfl
@[simp] theorem State.setLink_draws (l : Link) : (s.setLink l).draws = s.draws := rfl

/-! `State.setInitResult`. -/

@[simp] theorem State.setInitResult_cfg (ok : Bool) (l : Link) : (s.setInitResult ok l).cfg = s.cfg := rfl
@[simp] theorem State.setInitResult_fb (ok : Bool) (l : Link) : (s.setInitResult ok l).fb = s.fb := rfl
@[simp] theorem State.setInitResult_cp (ok : Bool) (l : Link) : (s.setInitResult ok l).cp = s.cp := rfl
@[simp] theorem State.setInitResult_link (ok : Bool) (l : Link) : (s.setInitResult ok l).link = l := rfl
@[simp] theorem State.setInitResult_initDone (ok : Bool) (l : Link) : (s.setInitResult ok l).initDone = true := rfl
@[simp] theorem State.setInitResult_initOk (ok : Bool) (l : Link) : (s.setInitResult ok l).initOk = ok := rfl
@[simp] theorem State.setInitResult_illegal (ok : Bool) (l : Link) : (s.setInitResult ok l).illegal = s.illegal := rfl
@[simp] theorem State.setInitResult_pwrEn (ok : Bool) (l : Link) : (s.setInitResult ok l).pwrEn = s.pwrEn := rfl
@[simp] theorem State.setInitResult_rst (ok : Bool) (l : Link) : (s.setInitResult ok l).rst = s.rst := rfl
@[simp] theorem State.setInitResult_busOpen (ok : Bool) (l : Link) : (s.setInitResult ok l).busOpen = s.busOpen := rfl
@[simp] theorem State.setInitResult_trace (ok : Bool) (l : Link) : (s.setInitResult ok l).trace = s.trace := rfl
@[simp] theorem State.setInitResult_stream (ok : Bool) (l : Link) : (s.setInitResult ok l).stream = s.stream := rfl
@[simp] theorem State.setInitResult_acks (ok : Bool) (l : Link) : (s.setInitResult ok l).acks = s.acks := rfl
@[simp] theorem State.setInitResult_draws (ok : Bool) (l : Link) : (s.setInitResult ok l).draws = s.draws := rfl

/-! `State.setIllegal`. -/

@[simp] theorem State.setIllegal_cfg : (s.setIllegal).cfg = s.cfg := rfl
@[simp] theorem State.setIllegal_fb : (s.setIllegal).fb = s.fb := rfl
@[simp] theorem State.setIllegal_cp : (s.setIllegal).cp = s.cp := rfl
@[simp] theorem State.setIllegal_link : (s.setIllegal).link = s.link := rfl
@[simp] theorem State.setIllegal_initDone : (s.setIllegal).initDone = s.initDone := rfl
@[simp] theorem State.setIllegal_initOk : (s.setIllegal).initOk = s.initOk := rfl
@[simp] theorem State.setIllegal_illegal : (s.setIllegal).illegal = true := rfl
@[simp] theorem State.setIllegal_pwrEn : (s.setIllegal).pwrEn = s.pwrEn := rfl
@[simp] theorem State.setIllegal_rst : (s.setIllegal).rst = s.rst := rfl
@[simp] theorem State.setIllegal_busOpen : (s.setIllegal).busOpen = s.busOpen := rfl
@[simp] theorem State.setIllegal_trace : (s.setIllegal).trace = s.trace := rfl
@[simp] theorem State.setIllegal_stream : (s.setIllegal).stream = s.stream := rfl
@[simp] theorem State.setIllegal_acks : (s.setIllegal).acks = s.acks := rfl
@[simp] theorem State.setIllegal_draws : (s.setIllegal).draws = s.draws := rfl

/-! `State.setPwrEn`. -/

@[simp] theorem State.setPwrEn_cfg (l : PwrEn) : (s.setPwrEn l).cfg = s.cfg := rfl
@[simp] theorem State.setPwrEn_fb (l : PwrEn) : (s.setPwrEn l).fb = s.fb := rfl
@[simp] theorem State.setPwrEn_cp (l : PwrEn) : (s.setPwrEn l).cp = s.cp := rfl
@[simp] theorem State.setPwrEn_link (l : PwrEn) : (s.setPwrEn l).link = s.link := rfl
@[simp] theorem State.setPwrEn_initDone (l : PwrEn) : (s.setPwrEn l).initDone = s.initDone := rfl
@[simp] theorem State.setPwrEn_initOk (l : PwrEn) : (s.setPwrEn l).initOk = s.initOk := rfl
@[simp] theorem State.setPwrEn_illegal (l : PwrEn) : (s.setPwrEn l).illegal = s.illegal := rfl
@[simp] theorem State.setPwrEn_pwrEn (l : PwrEn) : (s.setPwrEn l).pwrEn = l := rfl
@[simp] theorem State.setPwrEn_rst (l : PwrEn) : (s.setPwrEn l).rst = s.rst := rfl
@[simp] theorem State.setPwrEn_busOpen (l : PwrEn) : (s.setPwrEn l).busOpen = s.busOpen := rfl
@[simp] theorem State.setPwrEn_trace (l : PwrEn) : (s.setPwrEn l).trace = s.trace := rfl
@[simp] theorem State.setPwrEn_stream (l : PwrEn) : (s.setPwrEn l).stream = s.stream := rfl
@[simp] theorem State.setPwrEn_acks (l : PwrEn) : (s.setPwrEn l).acks = s.acks := rfl
@[simp] theorem State.setPwrEn_draws (l : PwrEn) : (s.setPwrEn l).draws = s.draws := rfl

/-! `State.setRst`. -/

@[simp] theorem State.setRst_cfg (l : Rst) : (s.setRst l).cfg = s.cfg := rfl
@[simp] theorem State.setRst_fb (l : Rst) : (s.setRst l).fb = s.fb := rfl
@[simp] theorem State.setRst_cp (l : Rst) : (s.setRst l).cp = s.cp := rfl
@[simp] theorem State.setRst_link (l : Rst) : (s.setRst l).link = s.link := rfl
@[simp] theorem State.setRst_initDone (l : Rst) : (s.setRst l).initDone = s.initDone := rfl
@[simp] theorem State.setRst_initOk (l : Rst) : (s.setRst l).initOk = s.initOk := rfl
@[simp] theorem State.setRst_illegal (l : Rst) : (s.setRst l).illegal = s.illegal := rfl
@[simp] theorem State.setRst_pwrEn (l : Rst) : (s.setRst l).pwrEn = s.pwrEn := rfl
@[simp] theorem State.setRst_rst (l : Rst) : (s.setRst l).rst = l := rfl
@[simp] theorem State.setRst_busOpen (l : Rst) : (s.setRst l).busOpen = s.busOpen := rfl
@[simp] theorem State.setRst_trace (l : Rst) : (s.setRst l).trace = s.trace := rfl
@[simp] theorem State.setRst_stream (l : Rst) : (s.setRst l).stream = s.stream := rfl
@[simp] theorem State.setRst_acks (l : Rst) : (s.setRst l).acks = s.acks := rfl
@[simp] theorem State.setRst_draws (l : Rst) : (s.setRst l).draws = s.draws := rfl

/-! `State.setBusOpen`. -/

@[simp] theorem State.setBusOpen_cfg : (s.setBusOpen).cfg = s.cfg := rfl
@[simp] theorem State.setBusOpen_fb : (s.setBusOpen).fb = s.fb := rfl
@[simp] theorem State.setBusOpen_cp : (s.setBusOpen).cp = s.cp := rfl
@[simp] theorem State.setBusOpen_link : (s.setBusOpen).link = s.link := rfl
@[simp] theorem State.setBusOpen_initDone : (s.setBusOpen).initDone = s.initDone := rfl
@[simp] theorem State.setBusOpen_initOk : (s.setBusOpen).initOk = s.initOk := rfl
@[simp] theorem State.setBusOpen_illegal : (s.setBusOpen).illegal = s.illegal := rfl
@[simp] theorem State.setBusOpen_pwrEn : (s.setBusOpen).pwrEn = s.pwrEn := rfl
@[simp] theorem State.setBusOpen_rst : (s.setBusOpen).rst = s.rst := rfl
@[simp] theorem State.setBusOpen_busOpen : (s.setBusOpen).busOpen = true := rfl
@[simp] theorem State.setBusOpen_trace : (s.setBusOpen).trace = s.trace := rfl
@[simp] theorem State.setBusOpen_stream : (s.setBusOpen).stream = s.stream := rfl
@[simp] theorem State.setBusOpen_acks : (s.setBusOpen).acks = s.acks := rfl
@[simp] theorem State.setBusOpen_draws : (s.setBusOpen).draws = s.draws := rfl

/-! `State.record`. -/

@[simp] theorem State.record_cfg (e : Event) : (s.record e).cfg = s.cfg := rfl
@[simp] theorem State.record_fb (e : Event) : (s.record e).fb = s.fb := rfl
@[simp] theorem State.record_cp (e : Event) : (s.record e).cp = s.cp := rfl
@[simp] theorem State.record_link (e : Event) : (s.record e).link = s.link := rfl
@[simp] theorem State.record_initDone (e : Event) : (s.record e).initDone = s.initDone := rfl
@[simp] theorem State.record_initOk (e : Event) : (s.record e).initOk = s.initOk := rfl
@[simp] theorem State.record_illegal (e : Event) : (s.record e).illegal = s.illegal := rfl
@[simp] theorem State.record_pwrEn (e : Event) : (s.record e).pwrEn = s.pwrEn := rfl
@[simp] theorem State.record_rst (e : Event) : (s.record e).rst = s.rst := rfl
@[simp] theorem State.record_busOpen (e : Event) : (s.record e).busOpen = s.busOpen := rfl
@[simp] theorem State.record_trace (e : Event) : (s.record e).trace = s.trace ++ [e] := rfl
@[simp] theorem State.record_stream (e : Event) : (s.record e).stream = s.stream := rfl
@[simp] theorem State.record_acks (e : Event) : (s.record e).acks = s.acks := rfl
@[simp] theorem State.record_draws (e : Event) : (s.record e).draws = s.draws := rfl

/-! `State.setStream`. -/

@[simp] theorem State.setStream_cfg (bs : List Byte) : (s.setStream bs).cfg = s.cfg := rfl
@[simp] theorem State.setStream_fb (bs : List Byte) : (s.setStream bs).fb = s.fb := rfl
@[simp] theorem State.setStream_cp (bs : List Byte) : (s.setStream bs).cp = s.cp := rfl
@[simp] theorem State.setStream_link (bs : List Byte) : (s.setStream bs).link = s.link := rfl
@[simp] theorem State.setStream_initDone (bs : List Byte) : (s.setStream bs).initDone = s.initDone := rfl
@[simp] theorem State.setStream_initOk (bs : List Byte) : (s.setStream bs).initOk = s.initOk := rfl
@[simp] theorem State.setStream_illegal (bs : List Byte) : (s.setStream bs).illegal = s.illegal := rfl
@[simp] theorem State.setStream_pwrEn (bs : List Byte) : (s.setStream bs).pwrEn = s.pwrEn := rfl
@[simp] theorem State.setStream_rst (bs : List Byte) : (s.setStream bs).rst = s.rst := rfl
@[simp] theorem State.setStream_busOpen (bs : List Byte) : (s.setStream bs).busOpen = s.busOpen := rfl
@[simp] theorem State.setStream_trace (bs : List Byte) : (s.setStream bs).trace = s.trace := rfl
@[simp] theorem State.setStream_stream (bs : List Byte) : (s.setStream bs).stream = bs := rfl
@[simp] theorem State.setStream_acks (bs : List Byte) : (s.setStream bs).acks = s.acks := rfl
@[simp] theorem State.setStream_draws (bs : List Byte) : (s.setStream bs).draws = s.draws := rfl

/-! `State.plot`. -/

@[simp] theorem State.plot_cfg (ps : List Plot) : (s.plot ps).cfg = s.cfg := rfl
@[simp] theorem State.plot_fb (ps : List Plot) : (s.plot ps).fb = plotAll s.cfg ps s.fb := rfl
@[simp] theorem State.plot_cp (ps : List Plot) : (s.plot ps).cp = s.cp := rfl
@[simp] theorem State.plot_link (ps : List Plot) : (s.plot ps).link = s.link := rfl
@[simp] theorem State.plot_initDone (ps : List Plot) : (s.plot ps).initDone = s.initDone := rfl
@[simp] theorem State.plot_initOk (ps : List Plot) : (s.plot ps).initOk = s.initOk := rfl
@[simp] theorem State.plot_illegal (ps : List Plot) : (s.plot ps).illegal = s.illegal := rfl
@[simp] theorem State.plot_pwrEn (ps : List Plot) : (s.plot ps).pwrEn = s.pwrEn := rfl
@[simp] theorem State.plot_rst (ps : List Plot) : (s.plot ps).rst = s.rst := rfl
@[simp] theorem State.plot_busOpen (ps : List Plot) : (s.plot ps).busOpen = s.busOpen := rfl
@[simp] theorem State.plot_trace (ps : List Plot) : (s.plot ps).trace = s.trace := rfl
@[simp] theorem State.plot_stream (ps : List Plot) : (s.plot ps).stream = s.stream := rfl
@[simp] theorem State.plot_acks (ps : List Plot) : (s.plot ps).acks = s.acks := rfl
@[simp] theorem State.plot_draws (ps : List Plot) : (s.plot ps).draws = s.draws := rfl

/-! `State.takeAck`. -/

@[simp] theorem State.takeAck_cfg : (s.takeAck).cfg = s.cfg := rfl
@[simp] theorem State.takeAck_fb : (s.takeAck).fb = s.fb := rfl
@[simp] theorem State.takeAck_cp : (s.takeAck).cp = s.cp := rfl
@[simp] theorem State.takeAck_link : (s.takeAck).link = s.link := rfl
@[simp] theorem State.takeAck_initDone : (s.takeAck).initDone = s.initDone := rfl
@[simp] theorem State.takeAck_initOk : (s.takeAck).initOk = s.initOk := rfl
@[simp] theorem State.takeAck_illegal : (s.takeAck).illegal = s.illegal := rfl
@[simp] theorem State.takeAck_pwrEn : (s.takeAck).pwrEn = s.pwrEn := rfl
@[simp] theorem State.takeAck_rst : (s.takeAck).rst = s.rst := rfl
@[simp] theorem State.takeAck_busOpen : (s.takeAck).busOpen = s.busOpen := rfl
@[simp] theorem State.takeAck_trace : (s.takeAck).trace = s.trace := rfl
@[simp] theorem State.takeAck_stream : (s.takeAck).stream = s.stream := rfl
@[simp] theorem State.takeAck_acks : (s.takeAck).acks = s.acks.tail := rfl
@[simp] theorem State.takeAck_draws : (s.takeAck).draws = s.draws + 1 := rfl

/-! `State.busTxn`. -/

@[simp] theorem State.busTxn_cfg (bytes : List Byte) : (s.busTxn bytes).cfg = s.cfg := rfl
@[simp] theorem State.busTxn_fb (bytes : List Byte) : (s.busTxn bytes).fb = s.fb := rfl
@[simp] theorem State.busTxn_cp (bytes : List Byte) : (s.busTxn bytes).cp = s.cp := rfl
@[simp] theorem State.busTxn_link (bytes : List Byte) : (s.busTxn bytes).link = s.link := rfl
@[simp] theorem State.busTxn_initDone (bytes : List Byte) : (s.busTxn bytes).initDone = s.initDone := rfl
@[simp] theorem State.busTxn_initOk (bytes : List Byte) : (s.busTxn bytes).initOk = s.initOk := rfl
@[simp] theorem State.busTxn_illegal (bytes : List Byte) : (s.busTxn bytes).illegal = s.illegal := rfl
@[simp] theorem State.busTxn_pwrEn (bytes : List Byte) : (s.busTxn bytes).pwrEn = s.pwrEn := rfl
@[simp] theorem State.busTxn_rst (bytes : List Byte) : (s.busTxn bytes).rst = s.rst := rfl
@[simp] theorem State.busTxn_busOpen (bytes : List Byte) : (s.busTxn bytes).busOpen = s.busOpen := rfl
@[simp] theorem State.busTxn_trace (bytes : List Byte) : (s.busTxn bytes).trace = s.trace ++ [.txn bytes s.nextAck] := rfl
@[simp] theorem State.busTxn_stream (bytes : List Byte) : (s.busTxn bytes).stream = s.stream := rfl
@[simp] theorem State.busTxn_acks (bytes : List Byte) : (s.busTxn bytes).acks = s.acks.tail := rfl
@[simp] theorem State.busTxn_draws (bytes : List Byte) : (s.busTxn bytes).draws = s.draws + 1 := rfl

/-! `State.probe`. -/

@[simp] theorem State.probe_cfg : (s.probe).cfg = s.cfg := rfl
@[simp] theorem State.probe_fb : (s.probe).fb = s.fb := rfl
@[simp] theorem State.probe_cp : (s.probe).cp = s.cp := rfl
@[simp] theorem State.probe_link : (s.probe).link = s.link := rfl
@[simp] theorem State.probe_initDone : (s.probe).initDone = s.initDone := rfl
@[simp] theorem State.probe_initOk : (s.probe).initOk = s.initOk := rfl
@[simp] theorem State.probe_illegal : (s.probe).illegal = s.illegal := rfl
@[simp] theorem State.probe_pwrEn : (s.probe).pwrEn = s.pwrEn := rfl
@[simp] theorem State.probe_rst : (s.probe).rst = s.rst := rfl
@[simp] theorem State.probe_busOpen : (s.probe).busOpen = s.busOpen := rfl
@[simp] theorem State.probe_trace : (s.probe).trace = s.trace ++ [.probe s.nextAck] := rfl
@[simp] theorem State.probe_stream : (s.probe).stream = s.stream := rfl
@[simp] theorem State.probe_acks : (s.probe).acks = s.acks.tail := rfl
@[simp] theorem State.probe_draws : (s.probe).draws = s.draws + 1 := rfl

/-! `State.drivePwrEn`. -/

@[simp] theorem State.drivePwrEn_cfg (l : PwrEn) : (s.drivePwrEn l).cfg = s.cfg := rfl
@[simp] theorem State.drivePwrEn_fb (l : PwrEn) : (s.drivePwrEn l).fb = s.fb := rfl
@[simp] theorem State.drivePwrEn_cp (l : PwrEn) : (s.drivePwrEn l).cp = s.cp := rfl
@[simp] theorem State.drivePwrEn_link (l : PwrEn) : (s.drivePwrEn l).link = s.link := rfl
@[simp] theorem State.drivePwrEn_initDone (l : PwrEn) : (s.drivePwrEn l).initDone = s.initDone := rfl
@[simp] theorem State.drivePwrEn_initOk (l : PwrEn) : (s.drivePwrEn l).initOk = s.initOk := rfl
@[simp] theorem State.drivePwrEn_illegal (l : PwrEn) : (s.drivePwrEn l).illegal = s.illegal := rfl
@[simp] theorem State.drivePwrEn_pwrEn (l : PwrEn) : (s.drivePwrEn l).pwrEn = l := rfl
@[simp] theorem State.drivePwrEn_rst (l : PwrEn) : (s.drivePwrEn l).rst = s.rst := rfl
@[simp] theorem State.drivePwrEn_busOpen (l : PwrEn) : (s.drivePwrEn l).busOpen = s.busOpen := rfl
@[simp] theorem State.drivePwrEn_trace (l : PwrEn) : (s.drivePwrEn l).trace = s.trace ++ [.linePwrEn l] := rfl
@[simp] theorem State.drivePwrEn_stream (l : PwrEn) : (s.drivePwrEn l).stream = s.stream := rfl
@[simp] theorem State.drivePwrEn_acks (l : PwrEn) : (s.drivePwrEn l).acks = s.acks := rfl
@[simp] theorem State.drivePwrEn_draws (l : PwrEn) : (s.drivePwrEn l).draws = s.draws := rfl

/-! `State.driveRst`. -/

@[simp] theorem State.driveRst_cfg (l : Rst) : (s.driveRst l).cfg = s.cfg := rfl
@[simp] theorem State.driveRst_fb (l : Rst) : (s.driveRst l).fb = s.fb := rfl
@[simp] theorem State.driveRst_cp (l : Rst) : (s.driveRst l).cp = s.cp := rfl
@[simp] theorem State.driveRst_link (l : Rst) : (s.driveRst l).link = s.link := rfl
@[simp] theorem State.driveRst_initDone (l : Rst) : (s.driveRst l).initDone = s.initDone := rfl
@[simp] theorem State.driveRst_initOk (l : Rst) : (s.driveRst l).initOk = s.initOk := rfl
@[simp] theorem State.driveRst_illegal (l : Rst) : (s.driveRst l).illegal = s.illegal := rfl
@[simp] theorem State.driveRst_pwrEn (l : Rst) : (s.driveRst l).pwrEn = s.pwrEn := rfl
@[simp] theorem State.driveRst_rst (l : Rst) : (s.driveRst l).rst = l := rfl
@[simp] theorem State.driveRst_busOpen (l : Rst) : (s.driveRst l).busOpen = s.busOpen := rfl
@[simp] theorem State.driveRst_trace (l : Rst) : (s.driveRst l).trace = s.trace ++ [.lineRst l] := rfl
@[simp] theorem State.driveRst_stream (l : Rst) : (s.driveRst l).stream = s.stream := rfl
@[simp] theorem State.driveRst_acks (l : Rst) : (s.driveRst l).acks = s.acks := rfl
@[simp] theorem State.driveRst_draws (l : Rst) : (s.driveRst l).draws = s.draws := rfl

/-! `State.delay`. -/

@[simp] theorem State.delay_cfg (t : DelayName) : (s.delay t).cfg = s.cfg := rfl
@[simp] theorem State.delay_fb (t : DelayName) : (s.delay t).fb = s.fb := rfl
@[simp] theorem State.delay_cp (t : DelayName) : (s.delay t).cp = s.cp := rfl
@[simp] theorem State.delay_link (t : DelayName) : (s.delay t).link = s.link := rfl
@[simp] theorem State.delay_initDone (t : DelayName) : (s.delay t).initDone = s.initDone := rfl
@[simp] theorem State.delay_initOk (t : DelayName) : (s.delay t).initOk = s.initOk := rfl
@[simp] theorem State.delay_illegal (t : DelayName) : (s.delay t).illegal = s.illegal := rfl
@[simp] theorem State.delay_pwrEn (t : DelayName) : (s.delay t).pwrEn = s.pwrEn := rfl
@[simp] theorem State.delay_rst (t : DelayName) : (s.delay t).rst = s.rst := rfl
@[simp] theorem State.delay_busOpen (t : DelayName) : (s.delay t).busOpen = s.busOpen := rfl
@[simp] theorem State.delay_trace (t : DelayName) : (s.delay t).trace = s.trace ++ [.delay t] := rfl
@[simp] theorem State.delay_stream (t : DelayName) : (s.delay t).stream = s.stream := rfl
@[simp] theorem State.delay_acks (t : DelayName) : (s.delay t).acks = s.acks := rfl
@[simp] theorem State.delay_draws (t : DelayName) : (s.delay t).draws = s.draws := rfl

/-! `State.openBus`. -/

@[simp] theorem State.openBus_cfg : (s.openBus).cfg = s.cfg := rfl
@[simp] theorem State.openBus_fb : (s.openBus).fb = s.fb := rfl
@[simp] theorem State.openBus_cp : (s.openBus).cp = s.cp := rfl
@[simp] theorem State.openBus_link : (s.openBus).link = s.link := rfl
@[simp] theorem State.openBus_initDone : (s.openBus).initDone = s.initDone := rfl
@[simp] theorem State.openBus_initOk : (s.openBus).initOk = s.initOk := rfl
@[simp] theorem State.openBus_illegal : (s.openBus).illegal = s.illegal := rfl
@[simp] theorem State.openBus_pwrEn : (s.openBus).pwrEn = s.pwrEn := rfl
@[simp] theorem State.openBus_rst : (s.openBus).rst = s.rst := rfl
@[simp] theorem State.openBus_busOpen : (s.openBus).busOpen = true := rfl
@[simp] theorem State.openBus_trace : (s.openBus).trace = s.trace ++ [.busOpen] := rfl
@[simp] theorem State.openBus_stream : (s.openBus).stream = s.stream := rfl
@[simp] theorem State.openBus_acks : (s.openBus).acks = s.acks := rfl
@[simp] theorem State.openBus_draws : (s.openBus).draws = s.draws := rfl

end Sys2Proof.Machine
end

