-- ==== Sys2Proof/Laws/Bus.lean ====
section
/-! SUPPORT. What a sequence of bus transactions does, said once: it appends one event each, with the environment's
draws in order, and changes nothing else. -/

namespace Sys2Proof.Machine

theorem State.ackAt_zero (s : State) : s.ackAt 0 = s.nextAck := rfl

theorem State.ackAt_takeAck (s : State) (e : Event) (k : Nat) : (s.takeAck.record e).ackAt k = s.ackAt (k + 1) := by
  simp [State.ackAt, State.takeAck, State.record, Nat.add_comm, Nat.add_left_comm]

@[simp] theorem State.busTxns_nil (s : State) : s.busTxns [] = s := rfl

@[simp] theorem State.busTxns_cons (s : State) (b : List Byte) (l : List (List Byte)) :
    s.busTxns (b :: l) = (s.busTxn b).busTxns l := rfl

theorem State.busTxns_append (s : State) (l l' : List (List Byte)) :
    s.busTxns (l ++ l') = (s.busTxns l).busTxns l' := List.foldl_append

@[simp] theorem txnEvents_nil (s : State) (k : Nat) : txnEvents s k [] = [] := rfl

@[simp] theorem txnEvents_length (s : State) (k : Nat) (l : List (List Byte)) :
    (txnEvents s k l).length = l.length := by simp [txnEvents]

theorem txnEvents_cons (s : State) (k : Nat) (b : List Byte) (l : List (List Byte)) :
    txnEvents s k (b :: l) = .txn b (s.ackAt k) :: txnEvents s (k + 1) l := by
  simp only [txnEvents, List.mapIdx_cons, Nat.add_zero, Nat.add_assoc, Nat.add_comm 1]

theorem txnEvents_shift (s : State) (e : Event) (k : Nat) (l : List (List Byte)) :
    txnEvents (s.takeAck.record e) k l = txnEvents s (k + 1) l := by
  simp only [txnEvents, State.ackAt_takeAck]
  congr 1
  funext j bytes
  rw [show k + j + 1 = k + 1 + j by omega]

/-- The one thing a sequence of transactions does (R61, R181, R182). -/
theorem State.busTxns_eq (s : State) (l : List (List Byte)) :
    s.busTxns l =
      { s with
        trace := s.trace ++ txnEvents s 0 l
        acks := s.acks.drop l.length
        draws := s.draws + l.length } := by
  induction l generalizing s with
  | nil => simp
  | cons b l ih =>
    rw [State.busTxns_cons, ih, State.busTxn, txnEvents_shift, txnEvents_cons, State.ackAt_zero]
    simp [State.takeAck, State.record, Nat.add_assoc, Nat.add_comm 1]

@[simp] theorem State.busTxns_cfg (s : State) (l : List (List Byte)) : (s.busTxns l).cfg = s.cfg := by
  rw [State.busTxns_eq]

@[simp] theorem State.busTxns_fb (s : State) (l : List (List Byte)) : (s.busTxns l).fb = s.fb := by
  rw [State.busTxns_eq]

@[simp] theorem State.busTxns_cp (s : State) (l : List (List Byte)) : (s.busTxns l).cp = s.cp := by
  rw [State.busTxns_eq]

@[simp] theorem State.busTxns_link (s : State) (l : List (List Byte)) : (s.busTxns l).link = s.link := by
  rw [State.busTxns_eq]

@[simp] theorem State.busTxns_initDone (s : State) (l : List (List Byte)) : (s.busTxns l).initDone = s.initDone := by
  rw [State.busTxns_eq]

@[simp] theorem State.busTxns_initOk (s : State) (l : List (List Byte)) : (s.busTxns l).initOk = s.initOk := by
  rw [State.busTxns_eq]

@[simp] theorem State.busTxns_illegal (s : State) (l : List (List Byte)) : (s.busTxns l).illegal = s.illegal := by
  rw [State.busTxns_eq]

@[simp] theorem State.busTxns_pwrEn (s : State) (l : List (List Byte)) : (s.busTxns l).pwrEn = s.pwrEn := by
  rw [State.busTxns_eq]

@[simp] theorem State.busTxns_rst (s : State) (l : List (List Byte)) : (s.busTxns l).rst = s.rst := by
  rw [State.busTxns_eq]

@[simp] theorem State.busTxns_busOpen (s : State) (l : List (List Byte)) : (s.busTxns l).busOpen = s.busOpen := by
  rw [State.busTxns_eq]

@[simp] theorem State.busTxns_stream (s : State) (l : List (List Byte)) : (s.busTxns l).stream = s.stream := by
  rw [State.busTxns_eq]

@[simp] theorem State.busTxns_trace (s : State) (l : List (List Byte)) : (s.busTxns l).trace = s.trace ++ txnEvents s 0 l := by
  rw [State.busTxns_eq]

@[simp] theorem State.busTxns_acks (s : State) (l : List (List Byte)) : (s.busTxns l).acks = s.acks.drop l.length := by
  rw [State.busTxns_eq]

@[simp] theorem State.busTxns_draws (s : State) (l : List (List Byte)) : (s.busTxns l).draws = s.draws + l.length := by
  rw [State.busTxns_eq]

theorem txnBytes_append (es es' : List Event) : txnBytes (es ++ es') = txnBytes es ++ txnBytes es' := by
  induction es with
  | nil => rfl
  | cons e es ih => cases e <;> simp [txnBytes, ih]

@[simp] theorem txnBytes_txnEvents (s : State) (k : Nat) (l : List (List Byte)) : txnBytes (txnEvents s k l) = l := by
  induction l generalizing k with
  | nil => rfl
  | cons b l ih => rw [txnEvents_cons, txnBytes, ih]

theorem eventAcks_append (es es' : List Event) : eventAcks (es ++ es') = eventAcks es ++ eventAcks es' := by
  induction es with
  | nil => rfl
  | cons e es ih => cases e <;> simp [eventAcks, ih]

/-- A sequence of transactions records the environment's draws from the `k`-th on. -/
theorem eventAcks_txnEvents (s : State) (k : Nat) (l : List (List Byte)) :
    eventAcks (txnEvents s k l) = (List.range l.length).map fun (j : Nat) => s.ackAt (k + j) := by
  induction l generalizing k with
  | nil => rfl
  | cons b l ih =>
    rw [txnEvents_cons, eventAcks, ih, List.length_cons, List.range_succ_eq_map, List.map_cons, List.map_map]
    simp [Function.comp_def, Nat.add_assoc, Nat.add_comm 1]

/-- After `n` draws the next ones are those from the `n`-th on. -/
theorem State.ackAt_drop {s t : State} {n : Nat} (ha : t.acks = s.acks.drop n) (hd : t.draws = s.draws + n) (k : Nat) :
    t.ackAt k = s.ackAt (n + k) := by
  simp [State.ackAt, ha, hd, Nat.add_assoc]

/-- Forgetting the acknowledgements, a sequence of transactions leaves the same events whatever the draws. -/
theorem txnEvents_withoutAck (s t : State) (k : Nat) (l : List (List Byte)) :
    (txnEvents s k l).map Event.withoutAck = (txnEvents t k l).map Event.withoutAck := by
  induction l generalizing k with
  | nil => rfl
  | cons b l ih => rw [txnEvents_cons, txnEvents_cons, List.map_cons, List.map_cons, ih]; rfl

end Sys2Proof.Machine
end

