-- ==== Sys2Proof/Laws/Memory.lean ====
section
/-! SUPPORT. The laws of the framebuffer as a list of cells: reading back a write, the canonical form, and that two
canonical framebuffers that read alike are equal. -/

namespace Sys2Proof.Machine

@[simp] theorem Memory.read_nil (i : Nat) : Memory.read [] i = 0x00#8 := rfl

@[simp] theorem Memory.read_cleared (i : Nat) : Memory.cleared.read i = 0x00#8 := rfl

@[simp] theorem Memory.wf_cleared : Memory.cleared.wf = true := rfl

@[simp] theorem Memory.below_cleared (n : Nat) : Memory.cleared.below n = true := rfl

theorem Memory.wfFrom_cons {lo : Nat} {cell : Host.Cell} {m : Memory} :
    Memory.wfFrom lo (cell :: m) = true ↔
      lo ≤ cell.1 ∧ cell.2 ≠ 0x00#8 ∧ Memory.wfFrom (cell.1 + 1) m = true := by
  obtain ⟨j, w⟩ := cell
  simp [Memory.wfFrom, and_assoc]

theorem Memory.wfFrom_mono {lo lo' : Nat} {m : Memory} (h : lo' ≤ lo) (hm : Memory.wfFrom lo m = true) :
    Memory.wfFrom lo' m = true := by
  cases m with
  | nil => rfl
  | cons cell m =>
    rw [Memory.wfFrom_cons] at hm ⊢
    exact ⟨h.trans hm.1, hm.2⟩

/-- Below its first admitted index a canonical framebuffer reads `0x00`. -/
theorem Memory.read_of_lt {lo i : Nat} {m : Memory} (hm : Memory.wfFrom lo m = true) (h : i < lo) :
    m.read i = 0x00#8 := by
  induction m generalizing lo with
  | nil => rfl
  | cons cell m ih =>
    rw [Memory.wfFrom_cons] at hm
    rw [Memory.read, if_neg (by omega)]
    exact ih hm.2.2 (by omega)

theorem Memory.read_write_self_from {lo : Nat} {m : Memory} (hm : Memory.wfFrom lo m = true) (i : Nat) (v : Byte) :
    (m.write i v).read i = v := by
  induction m generalizing lo with
  | nil => by_cases hv : v = 0x00#8 <;> simp [Memory.write, hv, Memory.read]
  | cons cell m ih =>
    obtain ⟨j, w⟩ := cell
    rw [Memory.wfFrom_cons] at hm
    have hread : i ≤ j → Memory.read m i = 0x00#8 := fun h => Memory.read_of_lt hm.2.2 (by omega)
    rw [Memory.write]
    split_ifs with h1 h2 h3 h4
    · rw [Memory.read, if_neg (by omega), hread (by omega), h2]
    · simp [Memory.read]
    · rw [hread (by omega), h4]
    · simp [Memory.read]
    · rw [Memory.read, if_neg h3]
      exact ih hm.2.2

/-- A read after a write to the same index gives the value written. -/
theorem Memory.read_write_self {m : Memory} (hm : m.wf = true) (i : Nat) (v : Byte) : (m.write i v).read i = v :=
  Memory.read_write_self_from hm i v

/-- A write leaves every other index alone. -/
theorem Memory.read_write_other {m : Memory} {i k : Nat} (v : Byte) (h : k ≠ i) :
    (m.write i v).read k = m.read k := by
  induction m with
  | nil => by_cases hv : v = 0x00#8 <;> simp [Memory.write, hv, Memory.read, h]
  | cons cell m ih =>
    obtain ⟨j, w⟩ := cell
    rw [Memory.write]
    split_ifs with h1 h2 h3 h4
    · rfl
    · simp [Memory.read, h]
    · subst h3; simp [Memory.read, h]
    · subst h3; simp [Memory.read, h]
    · simp only [Memory.read, ih]

/-- What a byte reads after one write. -/
theorem Memory.read_write {m : Memory} (hm : m.wf = true) (i k : Nat) (v : Byte) :
    (m.write i v).read k = if k = i then v else m.read k := by
  split_ifs with h
  · subst h
    exact Memory.read_write_self hm _ _
  · exact Memory.read_write_other _ h

theorem Memory.wfFrom_write {lo i : Nat} {m : Memory} (v : Byte) (hm : Memory.wfFrom lo m = true) (h : lo ≤ i) :
    Memory.wfFrom lo (m.write i v) = true := by
  induction m generalizing lo with
  | nil =>
    rw [Memory.write]
    split_ifs with hv
    · rfl
    · exact Memory.wfFrom_cons.2 ⟨h, hv, rfl⟩
  | cons cell m ih =>
    obtain ⟨j, w⟩ := cell
    have hm' := Memory.wfFrom_cons.1 hm
    rw [Memory.write]
    split_ifs with h1 h2 h3 h4
    · exact hm
    · exact Memory.wfFrom_cons.2 ⟨h, h2, Memory.wfFrom_cons.2 ⟨h1, hm'.2⟩⟩
    · exact Memory.wfFrom_mono (by dsimp at hm'; omega) hm'.2.2
    · exact Memory.wfFrom_cons.2 ⟨h, h4, by subst h3; exact hm'.2.2⟩
    · exact Memory.wfFrom_cons.2 ⟨hm'.1, hm'.2.1, ih hm'.2.2 (by dsimp; omega)⟩

/-- A write keeps the canonical form. -/
theorem Memory.wf_write {m : Memory} (i : Nat) (v : Byte) (hm : m.wf = true) : (m.write i v).wf = true :=
  Memory.wfFrom_write v hm (Nat.zero_le i)

/-- A write below `n` keeps every listed index below `n`. -/
theorem Memory.below_write {m : Memory} {n i : Nat} (v : Byte) (hi : i < n) (hm : m.below n = true) :
    (m.write i v).below n = true := by
  induction m with
  | nil =>
    rw [Memory.write]
    split_ifs <;> simp [Memory.below, hi]
  | cons cell m ih =>
    obtain ⟨j, w⟩ := cell
    have hm' : j < n ∧ Memory.below n m = true := by simpa [Memory.below] using hm
    rw [Memory.write]
    split_ifs
    · exact hm
    · simpa [Memory.below, hi] using hm
    · exact hm'.2
    · simpa [Memory.below, hi] using hm'.2
    · simpa [Memory.below, hm'.1] using ih hm'.2

/-- Outside the indices listed a framebuffer reads `0x00`. -/
theorem Memory.read_of_below {m : Memory} {n i : Nat} (hm : m.below n = true) (h : n ≤ i) : m.read i = 0x00#8 := by
  induction m with
  | nil => rfl
  | cons cell m ih =>
    obtain ⟨j, w⟩ := cell
    have hm' : j < n ∧ Memory.below n m = true := by simpa [Memory.below] using hm
    rw [Memory.read, if_neg (by omega)]
    exact ih hm'.2

theorem Memory.eq_of_read_from {lo : Nat} {m m' : Memory} (hm : Memory.wfFrom lo m = true)
    (hm' : Memory.wfFrom lo m' = true) (h : ∀ i, m.read i = m'.read i) : m = m' := by
  induction m generalizing lo m' with
  | nil =>
    cases m' with
    | nil => rfl
    | cons cell m' =>
      obtain ⟨j, w⟩ := cell
      have := h j
      rw [Memory.wfFrom_cons] at hm'
      simp [Memory.read] at this
      exact absurd this.symm hm'.2.1
  | cons cell m ih =>
    obtain ⟨j, w⟩ := cell
    rw [Memory.wfFrom_cons] at hm
    cases m' with
    | nil =>
      have := h j
      simp [Memory.read] at this
      exact absurd this hm.2.1
    | cons cell' m' =>
      obtain ⟨j', w'⟩ := cell'
      rw [Memory.wfFrom_cons] at hm'
      dsimp only at hm hm'
      have hj : j = j' := by
        rcases Nat.lt_trichotomy j j' with hlt | heq | hgt
        · have := h j
          rw [Memory.read, if_pos rfl, Memory.read, if_neg (by omega),
            Memory.read_of_lt hm'.2.2 (by omega)] at this
          exact absurd this hm.2.1
        · exact heq
        · have := h j'
          rw [Memory.read, if_neg (by omega), Memory.read_of_lt hm.2.2 (by omega), Memory.read,
            if_pos rfl] at this
          exact absurd this.symm hm'.2.1
      subst hj
      have hw : w = w' := by simpa [Memory.read] using h j
      subst hw
      refine congrArg _ (ih hm.2.2 hm'.2.2 fun i => ?_)
      by_cases hi : i = j
      · rw [Memory.read_of_lt hm.2.2 (by omega), Memory.read_of_lt hm'.2.2 (by omega)]
      · simpa [Memory.read, hi] using h i

/-- Two canonical framebuffers that read alike at every index are equal. -/
theorem Memory.eq_of_read {m m' : Memory} (hm : m.wf = true) (hm' : m'.wf = true)
    (h : ∀ i, m.read i = m'.read i) : m = m' :=
  Memory.eq_of_read_from hm hm' h

end Sys2Proof.Machine
end

