-- ==== Sys2Proof/Laws/Pixel.lean ====
section
/-! SUPPORT. The laws of the pixel accessor and of a list of PlotPixel calls: what a pixel reads afterwards, which
bytes are left alone, and that the framebuffer stays canonical and inside `0 .. N_FB - 1`. -/

namespace Sys2Proof.Machine

theorem setBit_getLsbD (b : Byte) (v : Bool) {k j : Nat} (hk : k < 8) (hj : j < 8) :
    (setBit b k v).getLsbD j = if j = k then v else b.getLsbD j := by
  interval_cases k <;> interval_cases j <;> cases v <;> simp [setBit]

theorem pixelBit_lt (y : Nat) : pixelBit y < 8 := Nat.mod_lt _ (by norm_num)

theorem setBit_comm (b : Byte) {k k' : Nat} (hk : k < 8) (hk' : k' < 8) (v v' : Bool) (h : k ≠ k') :
    setBit (setBit b k v) k' v' = setBit (setBit b k' v') k v := by
  apply BitVec.eq_of_getLsbD_eq
  intro j hj
  rw [setBit_getLsbD _ _ hk' hj, setBit_getLsbD _ _ hk hj, setBit_getLsbD _ _ hk hj, setBit_getLsbD _ _ hk' hj]
  split_ifs <;> simp_all

theorem setBit_twice (b : Byte) {k : Nat} (hk : k < 8) (v v' : Bool) :
    setBit (setBit b k v) k v' = setBit b k v' := by
  apply BitVec.eq_of_getLsbD_eq
  intro j hj
  rw [setBit_getLsbD _ _ hk hj, setBit_getLsbD _ _ hk hj, setBit_getLsbD _ _ hk hj]
  split_ifs <;> rfl

/-- Two pixels of the framebuffer with the same byte index and the same bit are the same pixel (R52). -/
theorem pixelIndex_inj {c : Config} {x y x' y' : Int} (h : InFrame c x y) (h' : InFrame c x' y')
    (hi : pixelIndex c x.toNat y.toNat = pixelIndex c x'.toNat y'.toNat)
    (hb : pixelBit y.toNat = pixelBit y'.toNat) : x = x' ∧ y = y' := by
  obtain ⟨hx0, hx, hy0, -⟩ := h
  obtain ⟨hx0', hx', hy0', -⟩ := h'
  unfold pixelIndex at hi
  unfold pixelBit at hb
  have hw : x.toNat < c.width := by omega
  have hw' : x'.toNat < c.width := by omega
  have hm : x.toNat = x'.toNat := by
    have := congrArg (· % c.width) hi
    simpa [Nat.add_mul_mod_self_right, Nat.mod_eq_of_lt hw, Nat.mod_eq_of_lt hw'] using this
  have hd : y.toNat / 8 = y'.toNat / 8 := by
    rw [hm] at hi
    exact Nat.eq_of_mul_eq_mul_right (by omega) (Nat.add_left_cancel hi)
  omega

/-- The byte index of a pixel of an admitted framebuffer is below `N_FB` (R50, R54). -/
theorem pixelIndex_lt {c : Config} {x y : Int} (hc : c.sizeAdmitted = true) (h : InFrame c x y) :
    pixelIndex c x.toNat y.toNat < c.nFb := by
  obtain ⟨hx0, hx, hy0, hy⟩ := h
  have h8 : c.height % 8 = 0 := by simp [Config.sizeAdmitted] at hc; omega
  obtain ⟨p, hp⟩ : ∃ p, c.height = 8 * p := ⟨c.height / 8, by omega⟩
  have hn : c.nFb = p * c.width := by
    rw [Config.nFb, hp, show c.width * (8 * p) = 8 * (p * c.width) by ring]
    omega
  rw [hn, pixelIndex]
  have hq : y.toNat / 8 + 1 ≤ p := by omega
  have := Nat.mul_le_mul_right c.width hq
  rw [Nat.add_mul, Nat.one_mul] at this
  omega

theorem plotPixel_clipped {c : Config} {x y : Int} (v : Bool) (m : Memory) (h : ¬InFrame c x y) :
    plotPixel c x y v m = m := if_neg h

/-- PlotPixel keeps the canonical form. -/
theorem wf_plotPixel (c : Config) (x y : Int) (v : Bool) {m : Memory} (hm : m.wf = true) :
    (plotPixel c x y v m).wf = true := by
  unfold plotPixel
  split_ifs
  · exact Memory.wf_write _ _ hm
  · exact hm

/-- PlotPixel forms no index outside the framebuffer (R54, R101). -/
theorem below_plotPixel {c : Config} (hc : c.sizeAdmitted = true) (x y : Int) (v : Bool) {m : Memory}
    (hm : m.below c.nFb = true) : (plotPixel c x y v m).below c.nFb = true := by
  unfold plotPixel
  split_ifs with h
  · exact Memory.below_write _ (pixelIndex_lt hc h) hm
  · exact hm

/-- What a pixel reads after one PlotPixel (R100). -/
theorem pixelAt_plotPixel {c : Config} {px py x y : Int} (v : Bool) {m : Memory} (hm : m.wf = true)
    (h : InFrame c x y) :
    pixelAt c (plotPixel c px py v m) x y = if px = x ∧ py = y then v else pixelAt c m x y := by
  unfold plotPixel
  by_cases hp : InFrame c px py
  · rw [if_pos hp, pixelAt, if_pos h, pixelAt, if_pos h]
    by_cases hi : pixelIndex c x.toNat y.toNat = pixelIndex c px.toNat py.toNat
    · rw [hi, Memory.read_write_self hm,
        setBit_getLsbD _ _ (pixelBit_lt _) (pixelBit_lt _)]
      by_cases hb : pixelBit y.toNat = pixelBit py.toNat
      · obtain ⟨rfl, rfl⟩ := pixelIndex_inj h hp hi hb
        simp
      · rw [if_neg hb, if_neg]
        rintro ⟨rfl, rfl⟩
        exact hb rfl
    · rw [Memory.read_write_other _ hi, if_neg]
      rintro ⟨rfl, rfl⟩
      exact hi rfl
  · rw [if_neg hp, if_neg]
    rintro ⟨rfl, rfl⟩
    exact hp h

/-- A byte that does not hold the pixel is left alone by PlotPixel (R100). -/
theorem read_plotPixel_other {c : Config} {x y : Int} (v : Bool) (m : Memory) {i : Nat}
    (h : InFrame c x y → pixelIndex c x.toNat y.toNat ≠ i) : (plotPixel c x y v m).read i = m.read i := by
  unfold plotPixel
  split_ifs with hf
  · exact Memory.read_write_other _ (h hf).symm
  · rfl

@[simp] theorem plotAll_nil (c : Config) (m : Memory) : plotAll c [] m = m := rfl

@[simp] theorem plotAll_cons (c : Config) (p : Plot) (ps : List Plot) (m : Memory) :
    plotAll c (p :: ps) m = plotAll c ps (plotPixel c p.x p.y p.v m) := rfl

theorem plotAll_append (c : Config) (ps qs : List Plot) (m : Memory) :
    plotAll c (ps ++ qs) m = plotAll c qs (plotAll c ps m) := List.foldl_append

/-- Any list of PlotPixel calls keeps the canonical form. -/
theorem wf_plotAll (c : Config) (ps : List Plot) {m : Memory} (hm : m.wf = true) : (plotAll c ps m).wf = true := by
  induction ps generalizing m with
  | nil => exact hm
  | cons p ps ih => exact ih (wf_plotPixel c _ _ _ hm)

/-- Any list of PlotPixel calls stays inside `0 .. N_FB - 1`. -/
theorem below_plotAll {c : Config} (hc : c.sizeAdmitted = true) (ps : List Plot) {m : Memory}
    (hm : m.below c.nFb = true) : (plotAll c ps m).below c.nFb = true := by
  induction ps generalizing m with
  | nil => exact hm
  | cons p ps ih => exact ih (below_plotPixel hc _ _ _ hm)

/-- A list of calls outside the framebuffer changes nothing (R100). -/
theorem plotAll_clipped {c : Config} {ps : List Plot} {m : Memory} (h : ∀ p ∈ ps, ¬InFrame c p.x p.y) :
    plotAll c ps m = m := by
  induction ps with
  | nil => rfl
  | cons p ps ih =>
    rw [plotAll_cons, plotPixel_clipped _ _ (h p List.mem_cons_self)]
    exact ih fun q hq => h q (List.mem_cons_of_mem _ hq)

/-- A byte that holds none of the pixels named is left alone. -/
theorem read_plotAll_other {c : Config} {ps : List Plot} {m : Memory} {i : Nat}
    (h : ∀ p ∈ ps, InFrame c p.x p.y → pixelIndex c p.x.toNat p.y.toNat ≠ i) :
    (plotAll c ps m).read i = m.read i := by
  induction ps generalizing m with
  | nil => rfl
  | cons p ps ih =>
    rw [plotAll_cons, ih fun q hq => h q (List.mem_cons_of_mem _ hq)]
    exact read_plotPixel_other _ _ (h p List.mem_cons_self)

/-- A pixel none of the calls names reads as before. -/
theorem pixelAt_plotAll_other {c : Config} {ps : List Plot} {m : Memory} (hm : m.wf = true) {x y : Int}
    (h : InFrame c x y) (hn : ¬PlotsPixel ps x y) : pixelAt c (plotAll c ps m) x y = pixelAt c m x y := by
  induction ps generalizing m with
  | nil => rfl
  | cons p ps ih =>
    have hps : ¬PlotsPixel ps x y := fun ⟨v, hv⟩ => hn ⟨v, List.mem_cons_of_mem _ hv⟩
    rw [plotAll_cons, ih (wf_plotPixel c _ _ _ hm) hps, pixelAt_plotPixel _ hm h, if_neg]
    rintro ⟨rfl, rfl⟩
    exact hn ⟨p.v, List.mem_cons_self⟩

/-- A pixel that every call naming it writes with the value `v`, and some call does name, reads `v`. -/
theorem pixelAt_plotAll_eq {c : Config} {ps : List Plot} {m : Memory} (hm : m.wf = true) {x y : Int} {v : Bool}
    (h : InFrame c x y) (hv : ∀ w, (⟨x, y, w⟩ : Plot) ∈ ps → w = v) (hs : PlotsPixel ps x y) :
    pixelAt c (plotAll c ps m) x y = v := by
  induction ps generalizing m with
  | nil => exact absurd hs.choose_spec (by simp)
  | cons p ps ih =>
    rw [plotAll_cons]
    by_cases hps : PlotsPixel ps x y
    · exact ih (wf_plotPixel c _ _ _ hm) (fun w hw => hv w (List.mem_cons_of_mem _ hw)) hps
    · obtain ⟨w, hw⟩ := hs
      rcases List.mem_cons.1 hw with rfl | hw'
      · rw [pixelAt_plotAll_other (wf_plotPixel c _ _ _ hm) h hps, pixelAt_plotPixel _ hm h,
          if_pos ⟨rfl, rfl⟩]
        exact hv _ List.mem_cons_self
      · exact absurd ⟨w, hw'⟩ hps

/-- Calls that all write 1 turn on exactly the pixels they name (R122). -/
theorem turnsOn_plotAll {c : Config} {ps : List Plot} {m : Memory} (hm : m.wf = true)
    (hone : ∀ p ∈ ps, p.v = true) : TurnsOn c (PlotsPixel ps) m (plotAll c ps m) := by
  refine ⟨fun x y h => ?_, fun i hi => read_plotAll_other fun p hp hf => hi p.x p.y hf ⟨p.v, hp⟩⟩
  by_cases hs : PlotsPixel ps x y
  · simp [hs, pixelAt_plotAll_eq hm h (fun w hw => hone _ hw) hs]
  · simp [hs, pixelAt_plotAll_other hm h hs]

end Sys2Proof.Machine
end

