-- ==== Sys2Proof/Laws/Raster.lean ====
section
/-! SUPPORT. Which pixels the shared shapes of the rasterizers name: spans, rectangles, the steps of a line. -/

namespace Sys2Proof.Machine

theorem mem_hSpan {x y len px py : Int} {v : Bool} :
    (⟨px, py, v⟩ : Plot) ∈ hSpan x y len ↔ x ≤ px ∧ px < x + len ∧ py = y ∧ v = true := by
  simp only [hSpan, List.mem_map, List.mem_range, Plot.mk.injEq]
  constructor
  · rintro ⟨i, hi, rfl, rfl, rfl⟩
    exact ⟨by omega, by omega, rfl, rfl⟩
  · rintro ⟨h1, h2, rfl, rfl⟩
    exact ⟨(px - x).toNat, by omega, by omega, rfl, rfl⟩

theorem mem_vSpan {x y len px py : Int} {v : Bool} :
    (⟨px, py, v⟩ : Plot) ∈ vSpan x y len ↔ px = x ∧ y ≤ py ∧ py < y + len ∧ v = true := by
  simp only [vSpan, List.mem_map, List.mem_range, Plot.mk.injEq]
  constructor
  · rintro ⟨i, hi, rfl, rfl, rfl⟩
    exact ⟨rfl, by omega, by omega, rfl⟩
  · rintro ⟨rfl, h1, h2, rfl⟩
    exact ⟨(py - y).toNat, by omega, rfl, by omega, rfl⟩

theorem TurnsOn.congr {c : Config} {S S' : Int → Int → Prop} {m m' : Memory} (h : TurnsOn c S m m')
    (hs : ∀ x y, S x y ↔ S' x y) : TurnsOn c S' m m' := by
  rwa [← show S = S' from funext fun x => funext fun y => propext (hs x y)]

/-- A line loop makes one PlotPixel call for each column of the major axis. -/
@[simp] theorem lineLoop_length (st : Bool) (dx dy ys : Int) (n : Nat) (x y err : Int) :
    (lineLoop st dx dy ys n x y err).length = n := by
  induction n generalizing x y err with
  | zero => rfl
  | succ n ih =>
    simp only [lineLoop, List.length_cons]
    split_ifs <;> simp [ih]

/-- A line loop writes the value 1 only (R122). -/
theorem lineLoop_one (st : Bool) (dx dy ys : Int) (n : Nat) (x y err : Int) :
    ∀ p ∈ lineLoop st dx dy ys n x y err, p.v = true := by
  induction n generalizing x y err with
  | zero => simp [lineLoop]
  | succ n ih =>
    intro p hp
    simp only [lineLoop, List.mem_cons] at hp
    rcases hp with rfl | hp
    · split_ifs <;> rfl
    · split_ifs at hp <;> exact ih _ _ _ p hp

/-- What the loop of `LineDefault` plots in its `i`-th pass: after `k` passes and `j` minor steps the error is
`dx div 2 - k * dy + j * dx`, and it stays in `0 .. dx - 1` (R124). -/
theorem lineLoop_getElem (st : Bool) {dx dy : Int} (ys : Int) (hdy0 : 0 ≤ dy) (hdy : dy ≤ dx)
    (x0 y0 : Int) (n : Nat) :
    ∀ (k : Nat) (j err : Int), err = dx / 2 - (k : Int) * dy + j * dx → 0 ≤ err → err < dx → ∀ i, i < n →
      ∃ j' : Int,
        (lineLoop st dx dy ys n (x0 + k) (y0 + ys * j) err)[i]? =
          some (if st then ⟨y0 + ys * j', x0 + (k + i : Nat), true⟩ else ⟨x0 + (k + i : Nat), y0 + ys * j', true⟩) ∧
        0 ≤ dx / 2 - ((k + i : Nat) : Int) * dy + j' * dx ∧ dx / 2 - ((k + i : Nat) : Int) * dy + j' * dx < dx := by
  induction n with
  | zero =>
    intro k j err he h1 h2 i hi
    omega
  | succ n ih =>
    intro k j err he h1 h2 i hi
    cases i with
    | zero => exact ⟨j, by simp [lineLoop], by simpa [he] using h1, by simpa [he] using h2⟩
    | succ i =>
      simp only [lineLoop, List.getElem?_cons_succ, show k + (i + 1) = k + 1 + i by omega]
      have hx : x0 + (k : Int) + 1 = x0 + (k + 1 : Nat) := by push_cast; ring
      by_cases hneg : err - dy < 0
      · rw [if_pos hneg, hx, show y0 + ys * j + ys = y0 + ys * (j + 1) by ring]
        exact ih (k + 1) (j + 1) (err - dy + dx) (by rw [he]; push_cast; ring) (by omega) (by omega) i (by omega)
      · rw [if_neg hneg, hx]
        exact ih (k + 1) j (err - dy) (by rw [he]; push_cast; ring) (by omega) (by omega) i (by omega)

end Sys2Proof.Machine
end

