-- ==== Sys2Proof/Laws/Circle.lean ====
section
/-! SUPPORT. What the circle loop keeps (R141, R142, R146), and which pixels its steps name. -/

namespace Sys2Proof.Machine

/-- What every state of the loop of a circle of radius `r >= 1` satisfies. -/
def CircleState.Within (r : Int) (c : CircleState) : Prop :=
  0 ≤ c.px ∧ c.px ≤ r ∧ 0 ≤ c.py ∧ c.py ≤ r ∧ c.px - c.py ≤ 1 ∧ c.ddFx = 2 * c.px + 1 ∧ c.ddFy = -2 * c.py ∧
    -2 * r ≤ c.f ∧ c.f ≤ 2 * c.px + 2 ∧ (c.px < c.py → c.f ≤ 2 * c.px + 1)

theorem within_circleInit {r : Int} (h : 0 < r) : (circleInit r).Within r := by
  refine ⟨?_, ?_, ?_, ?_, ?_, ?_, ?_, ?_, ?_, fun _ => ?_⟩ <;> simp only [circleInit] <;> omega

theorem within_circleStep {r : Int} {c : CircleState} (h : c.Within r) (hc : c.px < c.py) :
    (circleStep c).Within r := by
  simp only [CircleState.Within] at *
  by_cases hf : c.f ≥ 0 <;> simp only [circleStep, circleRight, circleLower, hf, if_true, if_false] <;> omega

@[simp] theorem circleStep_px (c : CircleState) : (circleStep c).px = c.px + 1 := by
  simp only [circleStep, circleRight, circleLower]
  split_ifs <;> rfl

@[simp] theorem circleStep_py (c : CircleState) : (circleStep c).py = if c.f ≥ 0 then c.py - 1 else c.py := by
  simp only [circleStep, circleRight, circleLower]
  split_ifs <;> rfl

/-- Each state of the loop is one step from the one before it, and the loop test held there (R142). -/
theorem circleLoop_getElem {n : Nat} {c d : CircleState} {k : Nat} (h : (circleLoop n c)[k]? = some d) :
    ∃ e, (if k = 0 then some c else (circleLoop n c)[k - 1]?) = some e ∧ e.px < e.py ∧ d = circleStep e := by
  induction n generalizing c k with
  | zero => simp [circleLoop] at h
  | succ n ih =>
    by_cases hc : c.px < c.py
    · rw [circleLoop, if_pos hc] at h ⊢
      cases k with
      | zero => exact ⟨c, rfl, hc, by simpa using h.symm⟩
      | succ k =>
        obtain ⟨e, h1, h2⟩ := ih (by simpa using h)
        refine ⟨e, ?_, h2⟩
        cases k with
        | zero => simpa using h1
        | succ k => simpa using h1
    · rw [circleLoop, if_neg hc] at h
      simp at h

theorem within_circleLoop {r : Int} (n : Nat) {c : CircleState} (hc : c.Within r) :
    ∀ d ∈ circleLoop n c, d.Within r := by
  induction n generalizing c with
  | zero => simp [circleLoop]
  | succ n ih =>
    rw [circleLoop]
    split_ifs with h
    · intro d hd
      rcases List.mem_cons.1 hd with rfl | hd
      · exact within_circleStep hc h
      · exact ih (within_circleStep hc h) d hd
    · simp

/-- With as much fuel as `py - px` the loop runs to its end (R142). -/
theorem circleLoop_getLast {r : Int} {n : Nat} {c : CircleState} (hc : c.Within r) (hn : c.py - c.px ≤ n)
    (hlt : c.px < c.py) :
    ∃ d, (circleLoop n c).getLast? = some d ∧ (d.px - d.py = 0 ∨ d.px - d.py = 1) := by
  induction n generalizing c with
  | zero => omega
  | succ n ih =>
    rw [circleLoop, if_pos hlt]
    have hi := within_circleStep hc hlt
    have e1 := circleStep_px c
    have e2 := circleStep_py c
    by_cases hl : (circleStep c).px < (circleStep c).py
    · obtain ⟨d, h1, h2⟩ := ih hi (by split_ifs at e2 <;> omega) hl
      exact ⟨d, by rw [List.getLast?_cons, h1]; rfl, h2⟩
    · have : circleLoop n (circleStep c) = [] := by cases n <;> simp only [circleLoop, if_neg hl]
      rw [this]
      exact ⟨circleStep c, rfl, by have := hi.2.2.2.2.1; omega⟩

theorem mem_circleOctants {x y px py : Int} {v : Bool} {c : CircleState} :
    (⟨px, py, v⟩ : Plot) ∈ circleOctants x y c ↔
      (((px = x + c.px ∨ px = x - c.px) ∧ (py = y + c.py ∨ py = y - c.py)) ∨
        ((px = x + c.py ∨ px = x - c.py) ∧ (py = y + c.px ∨ py = y - c.px))) ∧ v = true := by
  simp only [circleOctants, List.mem_cons, Plot.mk.injEq, List.not_mem_nil]
  tauto

theorem mem_circleCardinals {x y r px py : Int} {v : Bool} :
    (⟨px, py, v⟩ : Plot) ∈ circleCardinals x y r ↔
      ((px = x ∧ (py = y + r ∨ py = y - r)) ∨ (py = y ∧ (px = x + r ∨ px = x - r))) ∧ v = true := by
  simp only [circleCardinals, List.mem_cons, Plot.mk.injEq, List.not_mem_nil]
  tauto

theorem mem_circleChords {x y px py : Int} {v : Bool} {c : CircleState} :
    (⟨px, py, v⟩ : Plot) ∈ circleChords x y c ↔
      (((px = x + c.px ∨ px = x - c.px) ∧ y - c.py ≤ py ∧ py ≤ y + c.py) ∨
        ((px = x + c.py ∨ px = x - c.py) ∧ y - c.px ≤ py ∧ py ≤ y + c.px)) ∧ v = true := by
  simp only [circleChords, List.mem_append, mem_vSpan]
  cases v
  · simp
  · simp
    omega

end Sys2Proof.Machine
end

