-- ==== Sys2Proof/Laws/Decode.lean ====
section
/-! SUPPORT. The small laws of the decoder's parts: an `s16` operand and its two bytes (R73), and the text of
DRAW_STRING (R74). -/

namespace Sys2Proof

@[simp] theorem s16OfBytes_bytesOfS16 (v : S16) : s16OfBytes (v.setWidth 8) ((v >>> 8).setWidth 8) = v := by
  unfold s16OfBytes
  apply BitVec.eq_of_getLsbD_eq
  intro i hi
  simp only [BitVec.getLsbD_append, BitVec.getLsbD_setWidth, BitVec.getLsbD_ushiftRight]
  interval_cases i <;> simp

@[simp] theorem s16OfBytes_low (b0 b1 : Byte) : (s16OfBytes b0 b1).setWidth 8 = b0 := by
  apply BitVec.eq_of_getLsbD_eq
  intro i hi
  have h : (b1 ++ b0).getLsbD i = _ := BitVec.getLsbD_append
  simp only [s16OfBytes, BitVec.getLsbD_setWidth]
  simp [h, hi]

@[simp] theorem s16OfBytes_high (b0 b1 : Byte) : (s16OfBytes b0 b1 >>> 8).setWidth 8 = b1 := by
  apply BitVec.eq_of_getLsbD_eq
  intro i hi
  have h : (b1 ++ b0).getLsbD (8 + i) = _ := BitVec.getLsbD_append
  simp only [s16OfBytes, BitVec.getLsbD_setWidth, BitVec.getLsbD_ushiftRight]
  simp [h, hi]

/-- A text that is present is taken whole. -/
theorem takeText_append (text rest : List Byte) : takeText text.length (text ++ rest) = some (text, rest) := by
  induction text with
  | nil => rfl
  | cons b text ih => simp [takeText, ih]

/-- What `takeText` takes. -/
theorem takeText_eq_some {n : Nat} {bs text rest : List Byte} (h : takeText n bs = some (text, rest)) :
    text.length = n ∧ bs = text ++ rest := by
  induction n generalizing bs text rest with
  | zero =>
    obtain ⟨rfl, rfl⟩ : text = [] ∧ bs = rest := by simpa [takeText, eq_comm] using h
    simp
  | succ n ih =>
    cases bs with
    | nil => simp [takeText] at h
    | cons b bs =>
      rw [takeText] at h
      split at h
      · rename_i text' rest' h'
        obtain ⟨hl, hbs⟩ := ih h'
        obtain ⟨rfl, rfl⟩ : b :: text' = text ∧ rest' = rest := by simpa using h
        simp [hl, hbs]
      · simp at h

/-- When `takeText` waits. -/
theorem takeText_eq_none {n : Nat} {bs : List Byte} : takeText n bs = none ↔ bs.length < n := by
  induction n generalizing bs with
  | zero => simp [takeText]
  | succ n ih =>
    cases bs with
    | nil => simp [takeText]
    | cons b bs =>
      rw [takeText]
      split
      · rename_i text rest h
        obtain ⟨hl, hbs⟩ := takeText_eq_some h
        simp [hbs]
        omega
      · rename_i h
        simp [ih.1 h]

end Sys2Proof
end

