-- ==== Sys2Proof/Laws/Font.lean ====
section
/-! SUPPORT. Which pixels a glyph and a text name, and with which value (R163 to R166). -/

namespace Sys2Proof.Machine

/-- A glyph's columns are its bytes, its rows their bits (R160). -/
theorem glyphBit_eq (g : Glyph) (i j : Nat) (h : i < 5) : glyphBit g i j = g[i].getLsbD j := by
  unfold glyphBit
  rw [List.getD_eq_getElem?_getD, List.getElem?_eq_getElem (by simpa using h)]
  simp

theorem mem_cellPlot {bg : GlyphBg} {bit v : Bool} {x y px py : Int} :
    (⟨px, py, v⟩ : Plot) ∈ cellPlot bg bit x y ↔
      px = x ∧ py = y ∧ v = bit ∧ (bit = true ∨ bg = .opaqueCells) := by
  cases bit <;> cases bg <;> simp [cellPlot]

/-- The cells of one glyph (R164, R165). -/
theorem mem_glyphPlots {c : Config} {x y px py : Int} {k : Byte} {v : Bool} :
    (⟨px, py, v⟩ : Plot) ∈ glyphPlots c x y k ↔
      (x ≤ px ∧ px < x + 5 ∧ y ≤ py ∧ py < y + 7) ∧
        v = glyphBit (c.glyphFor k) (px - x).toNat (py - y).toNat ∧ (v = true ∨ c.glyphBg = .opaqueCells) := by
  simp only [glyphPlots, glyphWidth, glyphHeight, List.mem_flatMap, List.mem_range, mem_cellPlot]
  constructor
  · rintro ⟨i, hi, j, hj, rfl, rfl, rfl, h⟩
    refine ⟨⟨by omega, by omega, by omega, by omega⟩, ?_, h⟩
    simp
  · rintro ⟨⟨h1, h2, h3, h4⟩, rfl, h⟩
    exact ⟨(px - x).toNat, by omega, (py - y).toNat, by omega, by omega, by omega, rfl, h⟩

/-- The cells of a text: character `k` stands at `cx + 6k`, and no two characters share a column (R166, R167). -/
theorem mem_stringPlots {c : Config} {text : List Byte} {cx cy px py : Int} {v : Bool} :
    (⟨px, py, v⟩ : Plot) ∈ stringPlots c cx cy text ↔
      (cx ≤ px ∧ (px - cx) % 6 < 5 ∧ px < cx + 6 * text.length ∧ cy ≤ py ∧ py < cy + 7) ∧
        v = glyphBit (c.glyphFor (text.getD ((px - cx) / 6).toNat 0x20#8)) ((px - cx) % 6).toNat (py - cy).toNat ∧
        (v = true ∨ c.glyphBg = .opaqueCells) := by
  induction text generalizing cx with
  | nil =>
    simp only [stringPlots, List.not_mem_nil, List.length_nil, false_iff]
    omega
  | cons k ks ih =>
    simp only [stringPlots, List.mem_append, mem_glyphPlots, ih, List.length_cons, cursorAdvance]
    by_cases h : px < cx + 6
    · constructor
      · rintro (⟨hr, hv⟩ | ⟨hr, -⟩)
        · refine ⟨by omega, ?_⟩
          rwa [show (px - cx) / 6 = 0 by omega, show (px - cx) % 6 = px - cx by omega]
        · omega
      · rintro ⟨hr, hv⟩
        refine .inl ⟨by omega, ?_⟩
        rwa [show (px - cx) / 6 = 0 by omega, show (px - cx) % 6 = px - cx by omega] at hv
    · have hd : ((px - cx) / 6).toNat = ((px - (cx + 6)) / 6).toNat + 1 := by omega
      have hm : (px - (cx + 6)) % 6 = (px - cx) % 6 := by omega
      rw [hm, hd, List.getD_cons_succ]
      constructor
      · rintro (⟨hr, -⟩ | ⟨hr, hv⟩)
        · omega
        · exact ⟨by omega, hv⟩
      · rintro ⟨hr, hv⟩
        exact .inr ⟨by omega, hv⟩

/-- Calls that write the value `V px py` on the cells `R`, the zeros in `OPAQUE` mode only (R163): what each pixel reads
afterwards, and which bytes are left alone. -/
theorem pixelAt_plotAll_cells {c : Config} {ps : List Plot} {m : Memory} (hm : m.wf = true) (R : Int → Int → Prop)
    [∀ x y, Decidable (R x y)] (V : Int → Int → Bool)
    (h : ∀ px py v, (⟨px, py, v⟩ : Plot) ∈ ps ↔ R px py ∧ v = V px py ∧ (v = true ∨ c.glyphBg = .opaqueCells)) :
    (∀ px py, InFrame c px py → pixelAt c (plotAll c ps m) px py =
      if R px py then V px py || (decide (c.glyphBg = .transparent) && pixelAt c m px py) else pixelAt c m px py) ∧
    ∀ i, (∀ px py, InFrame c px py → R px py → pixelIndex c px.toNat py.toNat ≠ i) →
      (plotAll c ps m).read i = m.read i := by
  refine ⟨fun px py hf => ?_, fun i hi => read_plotAll_other fun p hp hf => hi _ _ hf ((h p.x p.y p.v).1 hp).1⟩
  by_cases hP : PlotsPixel ps px py
  · obtain ⟨v, hv⟩ := hP
    obtain ⟨h1, h2, h3⟩ := (h _ _ _).1 hv
    rw [pixelAt_plotAll_eq hm hf (v := v) (fun w hw => by rw [((h _ _ _).1 hw).2.1, h2]) ⟨v, hv⟩, if_pos h1, ← h2]
    rcases h3 with rfl | h3
    · simp
    · simp [h3]
  · rw [pixelAt_plotAll_other hm hf hP]
    split_ifs with hR
    · have hv : V px py = false := by
        by_contra hv
        exact hP ⟨true, (h _ _ _).2 ⟨hR, by simpa using hv, .inl rfl⟩⟩
      have hb : c.glyphBg = .transparent := by
        by_contra hb
        exact hP ⟨_, (h _ _ _).2 ⟨hR, rfl, .inr (by cases hg : c.glyphBg <;> simp_all)⟩⟩
      simp [hv, hb]
    · rfl

/-- A text in two parts: the second begins where the cursor of the first stopped (R83, R166). -/
theorem stringPlots_append (c : Config) (text text' : List Byte) (cx cy : Int) :
    stringPlots c cx cy (text ++ text') =
      stringPlots c cx cy text ++ stringPlots c (cx + 6 * text.length) cy text' := by
  induction text generalizing cx with
  | nil => simp [stringPlots]
  | cons k ks ih =>
    simp only [List.cons_append, stringPlots, ih, List.append_assoc, List.length_cons, cursorAdvance]
    rw [show cx + 6 + 6 * (ks.length : Int) = cx + 6 * ((ks.length + 1 : Nat) : Int) by push_cast; ring]

end Sys2Proof.Machine
end

