-- ==== Sys2Proof/Laws/Line.lean ====
section
/-! SUPPORT. The pixels of `LineDefault` meet the envelope of R123, and what `LINE_RASTER` does with them at ties. -/

namespace Sys2Proof.Machine

@[simp] theorem lineOrdered_length (st : Bool) (x0 y0 x1 y1 : Int) :
    (lineOrdered st x0 y0 x1 y1).length = (x1 - x0 + 1).toNat := lineLoop_length ..

/-- The `i`-th pixel of a line in rising order of its major axis, and its distance from the ideal line. -/
theorem lineOrdered_getElem (st : Bool) {xa ya xb yb : Int} (hx : xa ≤ xb) (hd : |yb - ya| ≤ xb - xa) {i : Nat}
    (hi : (i : Int) ≤ xb - xa) :
    ∃ m : Int,
      (lineOrdered st xa ya xb yb)[i]? = some (if st then ⟨m, xa + i, true⟩ else ⟨xa + i, m, true⟩) ∧
      2 * |(m - ya) * (xb - xa) - (yb - ya) * i| ≤ xb - xa ∧ (xb - xa = 0 → m = ya) ∧ ((i : Int) = 0 → m = ya) ∧
      ((i : Int) = xb - xa → m = yb) := by
  have hs : |(if ya < yb then (1 : Int) else -1)| = 1 := by split_ifs <;> simp
  have hsd : (if ya < yb then (1 : Int) else -1) * |yb - ya| = yb - ya := by
    split_ifs with h
    · rw [abs_of_pos (by omega)]; ring
    · rw [abs_of_nonpos (by omega)]; ring
  by_cases h0 : xa = xb
  · subst h0
    have hy : yb = ya := by
      have := abs_nonneg (yb - ya)
      have h : |yb - ya| = 0 := by omega
      rw [abs_eq_zero] at h
      omega
    subst hy
    obtain rfl : i = 0 := by omega
    exact ⟨yb, by cases st <;> simp [lineOrdered, lineLoop], by simp, by simp, by simp, by simp⟩
  · obtain ⟨j, e, b1, b2⟩ := lineLoop_getElem st (dx := xb - xa) (if ya < yb then 1 else -1) (abs_nonneg (yb - ya)) hd
      xa ya (xb - xa + 1).toNat 0 0 ((xb - xa) / 2) (by simp) (by omega) (by omega) i (by omega)
    simp only [Nat.zero_add] at e b1 b2
    have hc := mul_comm (i : Int) |yb - ya|
    refine ⟨ya + (if ya < yb then 1 else -1) * j, by simpa [lineOrdered] using e, ?_, by omega, ?_, ?_⟩
    · have key : |j * (xb - xa) - |yb - ya| * i| ≤ (xb - xa) / 2 := by rw [abs_le]; constructor <;> omega
      have : (ya + (if ya < yb then 1 else -1) * j - ya) * (xb - xa) - (yb - ya) * i =
          (if ya < yb then 1 else -1) * (j * (xb - xa) - |yb - ya| * i) := by
        linear_combination (-(i : Int)) * hsd.symm
      rw [this, abs_mul, hs]
      omega
    · intro hi0
      rw [hi0] at b1 b2
      have hj : j = 0 := by
        rcases lt_trichotomy j 0 with h | h | h
        · have : j * (xb - xa) ≤ -1 * (xb - xa) := mul_le_mul_of_nonneg_right (by omega) (by omega)
          omega
        · exact h
        · have : 1 * (xb - xa) ≤ j * (xb - xa) := mul_le_mul_of_nonneg_right (by omega) (by omega)
          omega
      simp [hj]
    · intro hie
      rw [hie] at b1 b2
      have e3 : (xb - xa) * |yb - ya| = |yb - ya| * (xb - xa) := mul_comm _ _
      have hj : j = |yb - ya| := by
        rcases lt_trichotomy j |yb - ya| with h | h | h
        · have : j * (xb - xa) ≤ (|yb - ya| - 1) * (xb - xa) := mul_le_mul_of_nonneg_right (by omega) (by omega)
          rw [sub_mul] at this
          omega
        · exact h
        · have : (|yb - ya| + 1) * (xb - xa) ≤ j * (xb - xa) := mul_le_mul_of_nonneg_right (by omega) (by omega)
          rw [add_mul] at this
          omega
      rw [hj, hsd]
      ring

/-- A line in rising order of its major axis meets the envelope. -/
theorem lineOrdered_envelope (st : Bool) {xa ya xb yb : Int} (hx : xa ≤ xb) (hd : |yb - ya| ≤ xb - xa) :
    MajorEnvelope xa ya xb yb fun t m =>
      PlotsPixel (lineOrdered st xa ya xb yb) (if st then m else t) (if st then t else m) := by
  have key : ∀ t m, PlotsPixel (lineOrdered st xa ya xb yb) (if st then m else t) (if st then t else m) ↔
      ∃ i : Nat, (i : Int) ≤ xb - xa ∧ t = xa + i ∧
        (lineOrdered st xa ya xb yb)[i]? = some (if st then ⟨m, xa + i, true⟩ else ⟨xa + i, m, true⟩) := by
    intro t m
    constructor
    · rintro ⟨v, hv⟩
      obtain ⟨i, hi, he⟩ := List.mem_iff_getElem.1 hv
      rw [lineOrdered_length] at hi
      obtain ⟨m', e, -⟩ := lineOrdered_getElem st hx hd (i := i) (by omega)
      have : (lineOrdered st xa ya xb yb)[i]? = some ⟨if st then m else t, if st then t else m, v⟩ := by
        rw [List.getElem?_eq_getElem (by rw [lineOrdered_length]; exact hi), he]
      rw [e] at this
      refine ⟨i, by omega, ?_, ?_⟩
      · cases st <;> simp at this <;> omega
      · rw [e]
        cases st <;> simp at this ⊢ <;> omega
    · rintro ⟨i, hi, rfl, he⟩
      have := List.mem_of_getElem? he
      exact ⟨true, by cases st <;> simpa using this⟩
  have hmin : min xa xb = xa := min_eq_left hx
  have hmax : max xa xb = xb := max_eq_right hx
  have habs : |xb - xa| = xb - xa := abs_of_nonneg (by omega)
  refine ⟨fun t h1 h2 => ?_, fun t m hp => ?_, ?_, ?_⟩
  · obtain ⟨m, e, -⟩ := lineOrdered_getElem st hx hd (i := (t - xa).toNat) (by omega)
    refine ⟨m, (key _ _).2 ⟨_, by omega, by omega, e⟩, fun m' hm' => ?_⟩
    obtain ⟨i, hi, ht, he⟩ := (key _ _).1 hm'
    obtain rfl : i = (t - xa).toNat := by omega
    rw [e] at he
    cases st <;> simp at he <;> omega
  · obtain ⟨i, hi, rfl, he⟩ := (key _ _).1 hp
    obtain ⟨m', e, b, c, -⟩ := lineOrdered_getElem st hx hd hi
    obtain rfl : m' = m := by rw [e] at he; cases st <;> simp at he <;> omega
    rw [hmin, hmax, habs]
    exact ⟨by omega, by omega, fun _ => by simpa using b, c⟩
  · obtain ⟨m, e, -, -, d, -⟩ := lineOrdered_getElem st hx hd (i := 0) (by simpa using hx)
    obtain rfl := d rfl
    exact (key _ _).2 ⟨0, by simpa using hx, by simp, e⟩
  · obtain ⟨m, e, -, -, -, d⟩ := lineOrdered_getElem st hx hd (i := (xb - xa).toNat) (by omega)
    obtain rfl := d (by omega)
    exact (key _ _).2 ⟨_, by omega, by omega, e⟩

/-- Exchanging the ends of a line keeps its envelope. -/
theorem MajorEnvelope.swap {x0 y0 x1 y1 : Int} {S : Int → Int → Prop} (h : MajorEnvelope x0 y0 x1 y1 S) :
    MajorEnvelope x1 y1 x0 y0 S := by
  obtain ⟨h1, h2, h3, h4⟩ := h
  refine ⟨fun t a b => h1 t (min_comm x0 x1 ▸ a) (max_comm x0 x1 ▸ b), fun t m hp => ?_, h4, h3⟩
  obtain ⟨a, b, c, d⟩ := h2 t m hp
  refine ⟨min_comm x0 x1 ▸ a, max_comm x0 x1 ▸ b, fun hne => ?_, fun he => ?_⟩
  · have := c (by omega)
    rw [abs_sub_comm x0 x1, show (m - y1) * (x0 - x1) - (y0 - y1) * (t - x1) =
      -((m - y0) * (x1 - x0) - (y1 - y0) * (t - x0)) by ring, abs_neg]
    exact this
  · have hx : x0 = x1 := by omega
    subst hx
    obtain rfl : t = x0 := by simp at a b; omega
    exact (h1 t (by simp) (by simp)).unique hp h4

theorem lineMajor_envelope (st : Bool) {x0 y0 x1 y1 : Int} (hd : |y1 - y0| ≤ |x1 - x0|) :
    MajorEnvelope x0 y0 x1 y1 fun t m =>
      PlotsPixel (lineMajor st x0 y0 x1 y1) (if st then m else t) (if st then t else m) := by
  unfold lineMajor
  by_cases h : x0 > x1
  · simp only [if_pos h]
    refine (lineOrdered_envelope st (by omega) ?_).swap
    rw [abs_sub_comm y0 y1, ← abs_of_pos (show (0 : Int) < x0 - x1 by omega), abs_sub_comm x0 x1]
    exact hd
  · simp only [if_neg h]
    exact lineOrdered_envelope st (by omega) (by rwa [abs_of_nonneg (show (0 : Int) ≤ x1 - x0 by omega)] at hd)

/-- The default line meets the envelope of R123. -/
theorem lineDefault_envelope (x0 y0 x1 y1 : Int) :
    InLineEnvelope x0 y0 x1 y1 (PlotsPixel (lineDefault x0 y0 x1 y1)) := by
  constructor
  · intro h
    rw [lineDefault, if_neg (by omega)]
    exact lineMajor_envelope false h
  · intro h
    rw [lineDefault, if_pos h]
    exact lineMajor_envelope true (by omega)

/-- The default line writes the value 1 only (R122). -/
theorem lineDefault_one (x0 y0 x1 y1 : Int) : ∀ p ∈ lineDefault x0 y0 x1 y1, p.v = true := by
  intro p hp
  simp only [lineDefault, lineMajor, lineOrdered] at hp
  split_ifs at hp <;> exact lineLoop_one _ _ _ _ _ _ _ _ p hp

/-- One PlotPixel call for each coordinate of the major axis (R123). -/
theorem lineDefault_length (x0 y0 x1 y1 : Int) :
    ((lineDefault x0 y0 x1 y1).length : Int) = max |x1 - x0| |y1 - y0| + 1 := by
  simp only [lineDefault, lineMajor]
  rcases le_total x0 x1 with hx | hx <;> rcases le_total y0 y1 with hy | hy <;>
    simp only [abs_of_nonneg (sub_nonneg.2 hx), abs_of_nonpos (sub_nonpos.2 hx), abs_of_nonneg (sub_nonneg.2 hy),
      abs_of_nonpos (sub_nonpos.2 hy)] <;>
    split_ifs <;> rw [lineOrdered_length] <;> omega

/-! The parameter. -/

@[simp] theorem takesOther_ofDefault (p : LineTie) : takesOther .ofDefault p = false := rfl

/-- With its default the parameter is `LineDefault` (R124). -/
@[simp] theorem lineRaster_ofDefault (x0 y0 x1 y1 : Int) :
    lineRaster .ofDefault x0 y0 x1 y1 = lineDefault x0 y0 x1 y1 := by
  have : tiePlot .ofDefault x0 y0 x1 y1 = id := by
    funext p
    simp [tiePlot]
  rw [lineRaster, this, List.map_id]

@[simp] theorem lineRaster_length (r : LineRaster) (x0 y0 x1 y1 : Int) :
    (lineRaster r x0 y0 x1 y1).length = (lineDefault x0 y0 x1 y1).length := List.length_map ..

theorem tiePlot_v (r : LineRaster) (x0 y0 x1 y1 : Int) (p : Plot) : (tiePlot r x0 y0 x1 y1 p).v = p.v := by
  unfold tiePlot
  split_ifs <;> rfl

/-- Every value of the parameter writes the value 1 only (R122). -/
theorem lineRaster_one (r : LineRaster) (x0 y0 x1 y1 : Int) : ∀ p ∈ lineRaster r x0 y0 x1 y1, p.v = true := by
  intro p hp
  obtain ⟨q, hq, rfl⟩ := List.mem_map.1 hp
  rw [tiePlot_v]
  exact lineDefault_one _ _ _ _ q hq

/-- The minor coordinate the parameter takes where the default takes `m`. -/
def tieMinor (r : LineRaster) (p : LineTie) (x0 y0 x1 y1 m : Int) : Int :=
  if takesOther r p then y0 + otherMinor (x1 - x0) (y1 - y0) (p.t - x0) (m - y0) else m

/-- The pixels of a line that is not steep, from those of the default. -/
theorem plotsPixel_lineRaster_flat {r : LineRaster} {x0 y0 x1 y1 : Int} (h : |x1 - x0| ≥ |y1 - y0|) {t m : Int} :
    PlotsPixel (lineRaster r x0 y0 x1 y1) t m ↔
      ∃ m', PlotsPixel (lineDefault x0 y0 x1 y1) t m' ∧ m = tieMinor r ⟨x0, y0, x1, y1, t⟩ x0 y0 x1 y1 m' := by
  have hf : ∀ p, tiePlot r x0 y0 x1 y1 p = ⟨p.x, tieMinor r ⟨x0, y0, x1, y1, p.x⟩ x0 y0 x1 y1 p.y, p.v⟩ := by
    intro p
    rw [tiePlot, if_neg (by omega), tieMinor]
    split_ifs <;> rfl
  constructor
  · rintro ⟨v, hv⟩
    obtain ⟨q, hq, he⟩ := List.mem_map.1 hv
    rw [hf, Plot.mk.injEq] at he
    obtain ⟨rfl, rfl, rfl⟩ := he
    exact ⟨q.y, ⟨q.v, hq⟩, rfl⟩
  · rintro ⟨m', ⟨v, hv⟩, rfl⟩
    exact ⟨v, List.mem_map.2 ⟨_, hv, hf _⟩⟩

/-- The pixels of a steep line, from those of the default. -/
theorem plotsPixel_lineRaster_steep {r : LineRaster} {x0 y0 x1 y1 : Int} (h : |y1 - y0| > |x1 - x0|) {t m : Int} :
    PlotsPixel (lineRaster r x0 y0 x1 y1) m t ↔
      ∃ m', PlotsPixel (lineDefault x0 y0 x1 y1) m' t ∧ m = tieMinor r ⟨x0, y0, x1, y1, t⟩ y0 x0 y1 x1 m' := by
  have hf : ∀ p, tiePlot r x0 y0 x1 y1 p = ⟨tieMinor r ⟨x0, y0, x1, y1, p.y⟩ y0 x0 y1 x1 p.x, p.y, p.v⟩ := by
    intro p
    rw [tiePlot, if_pos h, tieMinor]
    split_ifs <;> rfl
  constructor
  · rintro ⟨v, hv⟩
    obtain ⟨q, hq, he⟩ := List.mem_map.1 hv
    rw [hf, Plot.mk.injEq] at he
    obtain ⟨rfl, rfl, rfl⟩ := he
    exact ⟨q.x, ⟨q.v, hq⟩, rfl⟩
  · rintro ⟨m', ⟨v, hv⟩, rfl⟩
    exact ⟨v, List.mem_map.2 ⟨_, hv, hf _⟩⟩

/-- A minor coordinate within half a pixel stays within half a pixel when the other pixel is taken (R123). -/
theorem otherMinor_within {d e t m : Int} (h : 2 * |m * d - e * t| ≤ |d|) :
    2 * |otherMinor d e t m * d - e * t| ≤ |d| := by
  unfold otherMinor
  split_ifs with h0 h1 h2
  · exact h
  · rw [show (m + 1) * d - e * t = -(m * d - e * t) by linarith, abs_neg]
    exact h
  · rw [show (m - 1) * d - e * t = -(m * d - e * t) by linarith, abs_neg]
    exact h
  · exact h

/-- Two minor coordinates within half a pixel of the ideal line at the same place are the same, or each is the other
pixel of the other (R123). -/
theorem eq_or_eq_otherMinor {d e t m m' : Int} (hd : d ≠ 0) (h : 2 * |m * d - e * t| ≤ |d|)
    (h' : 2 * |m' * d - e * t| ≤ |d|) : m' = m ∨ m' ≠ m ∧ m' = otherMinor d e t m := by
  by_cases hm : m' = m
  · exact .inl hm
  refine .inr ⟨hm, ?_⟩
  rw [otherMinor, if_neg hd]
  have hdiff : |m' - m| * |d| ≤ 1 * |d| := by
    rw [← abs_mul]
    have := abs_sub_le (m' * d) (e * t) (m * d)
    rw [abs_sub_comm (e * t)] at this
    rw [sub_mul]
    omega
  have hle : |m' - m| ≤ 1 := le_of_mul_le_mul_right hdiff (abs_pos.2 hd)
  rw [abs_le] at hle
  have h2 : |2 * (m * d - e * t)| ≤ |d| := by rw [abs_mul]; exact h
  have h2' : |2 * (m' * d - e * t)| ≤ |d| := by rw [abs_mul]; exact h'
  rw [abs_le] at h2 h2'
  rcases lt_or_gt_of_ne hm with hlt | hgt
  · obtain rfl : m' = m - 1 := by omega
    rw [sub_mul] at h2'
    rcases abs_cases d with ⟨ha, -⟩ | ⟨ha, -⟩ <;> rw [ha] at h2 h2' <;> rw [if_neg (by omega), if_pos (by omega)]
  · obtain rfl : m' = m + 1 := by omega
    rw [add_mul] at h2'
    rcases abs_cases d with ⟨ha, -⟩ | ⟨ha, -⟩ <;> rw [ha] at h2 h2' <;> rw [if_pos (by omega)]

/-- Pixels of the envelope stay in it when some are replaced by the other pixel (R123): the ends are no ties, and a
coordinate of the major axis keeps one pixel. -/
theorem MajorEnvelope.tie {r : LineRaster} {x0 y0 x1 y1 : Int} {S S' : Int → Int → Prop} {p : Int → LineTie}
    (h : MajorEnvelope x0 y0 x1 y1 S) (hp : ∀ t, (p t).t = t)
    (hs : ∀ t m, S' t m ↔ ∃ m', S t m' ∧ m = tieMinor r (p t) x0 y0 x1 y1 m') : MajorEnvelope x0 y0 x1 y1 S' := by
  obtain ⟨h1, h2, h3, h4⟩ := h
  refine ⟨fun t a b => ?_, fun t m hm => ?_, (hs _ _).2 ⟨y0, h3, ?_⟩, (hs _ _).2 ⟨y1, h4, ?_⟩⟩
  · obtain ⟨m, hm, hu⟩ := h1 t a b
    refine ⟨_, (hs _ _).2 ⟨m, hm, rfl⟩, fun m2 hm2 => ?_⟩
    obtain ⟨m', hm', rfl⟩ := (hs _ _).1 hm2
    rw [hu m' hm']
  · obtain ⟨m', hm', rfl⟩ := (hs _ _).1 hm
    obtain ⟨a, b, c, d⟩ := h2 t m' hm'
    refine ⟨a, b, fun hne => ?_, fun he => ?_⟩ <;> unfold tieMinor <;> split_ifs
    · rw [hp, add_sub_cancel_left]
      exact otherMinor_within (c hne)
    · exact c hne
    · rw [otherMinor, if_pos he, d he]
      ring
    · exact d he
  all_goals
    unfold tieMinor otherMinor
    rw [hp]
    split_ifs <;> omega

end Sys2Proof.Machine
end

