-- ==== Sys2Proof/Laws/PerInstr.lean ====
section
/-! SUPPORT. Statements about every command as syntax, one lemma per constructor. Family `EncodedLength`: the encoder
writes as many bytes as the format of the command has (R74). -/

namespace Sys2Proof.Laws.EncodedLength

open Sys2Proof.Machine

/-- The encoding has the length R74 gives the command's format. -/
def Statement (i : Instr) : Prop := (encode i).length = commandLength i

theorem init : Statement .init := rfl
theorem clear : Statement .clear := rfl
theorem update : Statement .update := rfl
theorem displayOff : Statement .displayOff := rfl
theorem displayOn : Statement .displayOn := rfl
theorem sendCmd (b : Byte) : Statement (.sendCmd b) := rfl
theorem sendData (b : Byte) : Statement (.sendData b) := rfl
theorem setPixelOff (x y : S16) : Statement (.setPixelOff x y) := rfl
theorem setPixelOn (x y : S16) : Statement (.setPixelOn x y) := rfl
theorem drawLine (x0 y0 x1 y1 : S16) : Statement (.drawLine x0 y0 x1 y1) := rfl
theorem drawRect (x y w h : S16) : Statement (.drawRect x y w h) := rfl
theorem fillRect (x y w h : S16) : Statement (.fillRect x y w h) := rfl
theorem drawCircle (x y r : S16) : Statement (.drawCircle x y r) := rfl
theorem fillCircle (x y r : S16) : Statement (.fillCircle x y r) := rfl
theorem drawChar (x y : S16) (c : Byte) : Statement (.drawChar x y c) := rfl
theorem drawString (x y : S16) (text : List Byte) : Statement (.drawString x y text) := by
  simp [Statement, encode, commandLength, lenS, textLength, bytesOfS16]
  omega

end Sys2Proof.Laws.EncodedLength
end

