-- ==== Sys2Proof/Laws/Protocol.lean ====
section
/-! SUPPORT. What the parts of UPDATE and INIT do, one lemma per field: a flush, the configuration of step (d), the
bring-up of steps (a) to (c), and the two endings of INIT. -/

namespace Sys2Proof.Machine

variable (s : State)

/-- The byte lists of a flush (R187). -/
theorem State.flush_eq : s.flush = s.busTxns (windowTxns s.cfg ++ dataTxns s.cfg s.fb) := rfl

/-- The events depend on the draws of the state alone. -/
theorem txnEvents_congr {s t : State} (ha : s.acks = t.acks) (hd : s.draws = t.draws) (k : Nat)
    (l : List (List Byte)) : txnEvents s k l = txnEvents t k l := by
  simp only [txnEvents, State.ackAt, ha, hd]

theorem txnEvents_append (k : Nat) (l l' : List (List Byte)) :
    txnEvents s k (l ++ l') = txnEvents s k l ++ txnEvents s (k + l.length) l' := by
  induction l generalizing k with
  | nil => simp
  | cons b l ih => simp [txnEvents_cons, ih, Nat.add_assoc, Nat.add_comm 1]

/-- Events whose draws begin where those of an earlier sequence ended. -/
theorem txnEvents_drop {s t : State} {n : Nat} (ha : t.acks = s.acks.drop n) (hd : t.draws = s.draws + n) (k : Nat)
    (l : List (List Byte)) : txnEvents t k l = txnEvents s (n + k) l := by
  simp only [txnEvents, State.ackAt, ha, hd, List.drop_drop, Nat.add_assoc]

/-! `State.flush`. -/

@[simp] theorem State.flush_cfg : s.flush.cfg = s.cfg := by
  simp [State.flush]

@[simp] theorem State.flush_fb : s.flush.fb = s.fb := by
  simp [State.flush]

@[simp] theorem State.flush_cp : s.flush.cp = s.cp := by
  simp [State.flush]

@[simp] theorem State.flush_link : s.flush.link = s.link := by
  simp [State.flush]

@[simp] theorem State.flush_initDone : s.flush.initDone = s.initDone := by
  simp [State.flush]

@[simp] theorem State.flush_initOk : s.flush.initOk = s.initOk := by
  simp [State.flush]

@[simp] theorem State.flush_illegal : s.flush.illegal = s.illegal := by
  simp [State.flush]

@[simp] theorem State.flush_pwrEn : s.flush.pwrEn = s.pwrEn := by
  simp [State.flush]

@[simp] theorem State.flush_rst : s.flush.rst = s.rst := by
  simp [State.flush]

@[simp] theorem State.flush_busOpen : s.flush.busOpen = s.busOpen := by
  simp [State.flush]

@[simp] theorem State.flush_trace : s.flush.trace = s.trace ++ txnEvents s 0 (windowTxns s.cfg ++ dataTxns s.cfg s.fb) := by
  simp [State.flush]

@[simp] theorem State.flush_stream : s.flush.stream = s.stream := by
  simp [State.flush]

@[simp] theorem State.flush_acks : s.flush.acks = s.acks.drop (windowTxns s.cfg ++ dataTxns s.cfg s.fb).length := by
  simp [State.flush]

@[simp] theorem State.flush_draws : s.flush.draws = s.draws + (windowTxns s.cfg ++ dataTxns s.cfg s.fb).length := by
  simp [State.flush]

/-! `State.configure`. -/

@[simp] theorem State.configure_cfg : s.configure.cfg = s.cfg := by
  simp [State.configure]

@[simp] theorem State.configure_fb : s.configure.fb = s.fb := by
  simp [State.configure]

@[simp] theorem State.configure_cp : s.configure.cp = s.cp := by
  simp [State.configure]

@[simp] theorem State.configure_link : s.configure.link = s.link := by
  simp [State.configure]

@[simp] theorem State.configure_initDone : s.configure.initDone = s.initDone := by
  simp [State.configure]

@[simp] theorem State.configure_initOk : s.configure.initOk = s.initOk := by
  simp [State.configure]

@[simp] theorem State.configure_illegal : s.configure.illegal = s.illegal := by
  simp [State.configure]

@[simp] theorem State.configure_pwrEn : s.configure.pwrEn = s.pwrEn := by
  simp [State.configure]

@[simp] theorem State.configure_rst : s.configure.rst = s.rst := by
  simp [State.configure]

@[simp] theorem State.configure_busOpen : s.configure.busOpen = s.busOpen := by
  simp [State.configure]

@[simp] theorem State.configure_trace : s.configure.trace = s.trace ++ txnEvents s 0 (s.cfg.initSeq.map commandTxn) := by
  simp [State.configure]

@[simp] theorem State.configure_stream : s.configure.stream = s.stream := by
  simp [State.configure]

@[simp] theorem State.configure_acks : s.configure.acks = s.acks.drop (s.cfg.initSeq.map commandTxn).length := by
  simp [State.configure]

@[simp] theorem State.configure_draws : s.configure.draws = s.draws + (s.cfg.initSeq.map commandTxn).length := by
  simp [State.configure]

/-- The events of steps (a) to (c) of INIT up to the probe (R195). -/
def bringUpEvents : List Event :=
  [.linePwrEn .on, .delay .pwrSettle, .lineRst .run, .delay .rst1, .lineRst .reset, .delay .rst2, .lineRst .run,
    .busOpen]

/-! `State.bringUp`. -/

@[simp] theorem State.bringUp_cfg : s.bringUp.cfg = s.cfg := by
  simp [State.bringUp]

@[simp] theorem State.bringUp_fb : s.bringUp.fb = s.fb := by
  simp [State.bringUp]

@[simp] theorem State.bringUp_cp : s.bringUp.cp = s.cp := by
  simp [State.bringUp]

@[simp] theorem State.bringUp_link : s.bringUp.link = s.link := by
  simp [State.bringUp]

@[simp] theorem State.bringUp_initDone : s.bringUp.initDone = s.initDone := by
  simp [State.bringUp]

@[simp] theorem State.bringUp_initOk : s.bringUp.initOk = s.initOk := by
  simp [State.bringUp]

@[simp] theorem State.bringUp_illegal : s.bringUp.illegal = s.illegal := by
  simp [State.bringUp]

@[simp] theorem State.bringUp_pwrEn : s.bringUp.pwrEn = .on := by
  simp [State.bringUp]

@[simp] theorem State.bringUp_rst : s.bringUp.rst = .run := by
  simp [State.bringUp]

@[simp] theorem State.bringUp_busOpen : s.bringUp.busOpen = true := by
  simp [State.bringUp]

@[simp] theorem State.bringUp_trace : s.bringUp.trace = s.trace ++ bringUpEvents := by
  simp [State.bringUp, bringUpEvents]

@[simp] theorem State.bringUp_stream : s.bringUp.stream = s.stream := by
  simp [State.bringUp]

@[simp] theorem State.bringUp_acks : s.bringUp.acks = s.acks := by
  simp [State.bringUp]

@[simp] theorem State.bringUp_draws : s.bringUp.draws = s.draws := by
  simp [State.bringUp]

/-- The bring-up makes no transaction, so the probe's acknowledgement is the next draw of the state INIT starts in. -/
@[simp] theorem State.bringUp_nextAck : s.bringUp.nextAck = s.nextAck := by
  simp [State.nextAck]

/-! `State.initFail`. -/

@[simp] theorem State.initFail_cfg : s.initFail.cfg = s.cfg := by
  simp [State.initFail]

@[simp] theorem State.initFail_fb : s.initFail.fb = s.fb := by
  simp [State.initFail]

@[simp] theorem State.initFail_cp : s.initFail.cp = s.cp := by
  simp [State.initFail]

@[simp] theorem State.initFail_link : s.initFail.link = .uninit := by
  simp [State.initFail]

@[simp] theorem State.initFail_initDone : s.initFail.initDone = true := by
  simp [State.initFail]

@[simp] theorem State.initFail_initOk : s.initFail.initOk = false := by
  simp [State.initFail]

@[simp] theorem State.initFail_illegal : s.initFail.illegal = s.illegal := by
  simp [State.initFail]

@[simp] theorem State.initFail_pwrEn : s.initFail.pwrEn = s.pwrEn := by
  simp [State.initFail]

@[simp] theorem State.initFail_rst : s.initFail.rst = s.rst := by
  simp [State.initFail]

@[simp] theorem State.initFail_busOpen : s.initFail.busOpen = s.busOpen := by
  simp [State.initFail]

@[simp] theorem State.initFail_trace : s.initFail.trace = s.trace := by
  simp [State.initFail]

@[simp] theorem State.initFail_stream : s.initFail.stream = s.stream := by
  simp [State.initFail]

@[simp] theorem State.initFail_acks : s.initFail.acks = s.acks := by
  simp [State.initFail]

@[simp] theorem State.initFail_draws : s.initFail.draws = s.draws := by
  simp [State.initFail]

/-- The byte lists of steps (d) and (e) of INIT: the init sequence, then the flush of the cleared framebuffer (R203). -/
def initTxns (c : Config) : List (List Byte) :=
  c.initSeq.map commandTxn ++ (windowTxns c ++ dataTxns c Memory.cleared)

/-! `State.initSucceed`. -/

@[simp] theorem State.initSucceed_cfg : s.initSucceed.cfg = s.cfg := by
  simp [State.initSucceed]

@[simp] theorem State.initSucceed_fb : s.initSucceed.fb = Memory.cleared := by
  simp [State.initSucceed]

@[simp] theorem State.initSucceed_cp : s.initSucceed.cp = s.cp := by
  simp [State.initSucceed]

@[simp] theorem State.initSucceed_link : s.initSucceed.link = .active := by
  simp [State.initSucceed]

@[simp] theorem State.initSucceed_initDone : s.initSucceed.initDone = true := by
  simp [State.initSucceed]

@[simp] theorem State.initSucceed_initOk : s.initSucceed.initOk = true := by
  simp [State.initSucceed]

@[simp] theorem State.initSucceed_illegal : s.initSucceed.illegal = s.illegal := by
  simp [State.initSucceed]

@[simp] theorem State.initSucceed_pwrEn : s.initSucceed.pwrEn = s.pwrEn := by
  simp [State.initSucceed]

@[simp] theorem State.initSucceed_rst : s.initSucceed.rst = s.rst := by
  simp [State.initSucceed]

@[simp] theorem State.initSucceed_busOpen : s.initSucceed.busOpen = s.busOpen := by
  simp [State.initSucceed]

@[simp] theorem State.initSucceed_trace : s.initSucceed.trace = s.trace ++ txnEvents s 0 (initTxns s.cfg) := by
  have h : s.initSucceed.trace = s.trace ++ txnEvents s 0 (s.cfg.initSeq.map commandTxn) ++
      txnEvents (s.configure.setFb Memory.cleared) 0 (windowTxns s.cfg ++ dataTxns s.cfg Memory.cleared) := by
    simp [State.initSucceed]
  rw [h, txnEvents_drop (s := s) (t := s.configure.setFb Memory.cleared)
      (n := (s.cfg.initSeq.map commandTxn).length) (by simp) (by simp), initTxns,
    txnEvents_append s 0 (s.cfg.initSeq.map commandTxn), List.append_assoc, Nat.zero_add, Nat.add_zero]

@[simp] theorem State.initSucceed_stream : s.initSucceed.stream = s.stream := by
  simp [State.initSucceed]

@[simp] theorem State.initSucceed_acks : s.initSucceed.acks = s.acks.drop (initTxns s.cfg).length := by
  simp [State.initSucceed, initTxns]

@[simp] theorem State.initSucceed_draws : s.initSucceed.draws = s.draws + (initTxns s.cfg).length := by
  simp [State.initSucceed, initTxns, Nat.add_assoc]

/-! The data stream of a flush. -/

theorem chunkCount_eq (c : Config) : chunkCount c = (c.nFb + 15) / 16 := rfl

@[simp] theorem windowTxns_length (c : Config) : (windowTxns c).length = 6 := rfl

@[simp] theorem dataTxns_length (c : Config) (m : Memory) : (dataTxns c m).length = (c.nFb + 15) / 16 := by
  simp [dataTxns, chunkCount_eq]

/-- The transaction of chunk `k` (R189). -/
theorem dataTxns_getElem {c : Config} {m : Memory} {k : Nat} {l : List Byte} (h : (dataTxns c m)[k]? = some l) :
    k < chunkCount c ∧ l = ctrlData :: chunkData c m k := by
  simp only [dataTxns, List.getElem?_map, Option.map_eq_some_iff] at h
  obtain ⟨k', hk, rfl⟩ := h
  obtain ⟨hlt, rfl⟩ := List.getElem?_eq_some_iff.1 hk
  rw [List.length_range] at hlt
  rw [List.getElem_range]
  exact ⟨hlt, rfl⟩

/-- The first `n` chunks are the first `16n` framebuffer bytes, as far as there are any, in index order (R189). -/
theorem chunkData_flatten (c : Config) (m : Memory) {n : Nat} (h : n ≤ chunkCount c) :
    ((List.range n).map fun k => chunkData c m k).flatten = (List.range (min (16 * n) c.nFb)).map m.read := by
  induction n with
  | zero => simp
  | succ n ih =>
    have : 16 * n < c.nFb := by rw [chunkCount_eq] at h; omega
    rw [List.range_succ, List.map_append, List.flatten_append, ih (by omega)]
    simp only [List.map_cons, List.map_nil, List.flatten_cons, List.flatten_nil, List.append_nil, chunkData, chunkBytes]
    rw [show min (16 * (n + 1)) c.nFb = min (16 * n) c.nFb + (min (n * 16 + 16) c.nFb - n * 16) by omega,
      List.range_add, List.map_append, List.map_map, min_eq_left (by omega)]
    congr 1
    apply List.map_congr_left
    intro a _
    simp [Nat.mul_comm]

/-! The three commands over these sequences, by their parts: proofs rewrite with these and with the field lemmas above,
and never compare the whole states by `rfl`. -/

theorem exec_update : exec .update s = .next (s.flush.advance lenN) := rfl

theorem exec_init_success (h : s.nextAck = true) :
    exec .init s = .next (s.bringUp.probe.initSucceed.advance lenN) := by
  change execInit s = _
  rw [execInit, State.bringUp_nextAck, h, if_pos rfl]

theorem exec_init_failure (h : s.nextAck = false) :
    exec .init s = .next (s.bringUp.probe.initFail.advance lenN) := by
  change execInit s = _
  rw [execInit, State.bringUp_nextAck, h, if_neg Bool.false_ne_true]

end Sys2Proof.Machine
end

