-- ==== Sys2Proof/Laws/Run.lean ====
section
/-! SUPPORT. What a step is in each of its cases, how a run unrolls, and what host writes do. -/

namespace Sys2Proof.Machine

theorem encode_length (i : Instr) : (encode i).length = commandLength i := by
  cases i
  case drawString x y text => exact Laws.EncodedLength.drawString x y text
  all_goals rfl

theorem commandLength_pos (i : Instr) : 0 < commandLength i := by
  cases i <;> simp [commandLength, lenN, lenB, lenP, lenT, lenQ, lenG, lenS]

/-! The cases of a step. -/

theorem step_halted {s : State} (ha : s.cfg.admitted = true) (hi : s.illegal = true) :
    step s = .fault (.illegalOpcode s.cp s.opcodeByte) := by
  simp [step, ha, hi, haltedOutcome]

theorem step_command {s : State} {i : Instr} {rest : List Byte} (ha : s.cfg.admitted = true) (hi : s.illegal = false)
    (hd : decode s.pending = .command i rest) : step s = exec i s := by
  simp [step, ha, hi, hd]

theorem step_incomplete {s : State} (ha : s.cfg.admitted = true) (hi : s.illegal = false)
    (hd : decode s.pending = .incomplete) : step s = .next s := by
  simp [step, ha, hi, hd, waitForBytes]

theorem step_illegal {s : State} {op : Byte} (ha : s.cfg.admitted = true) (hi : s.illegal = false)
    (hd : decode s.pending = .illegalOpcode op) : step s = .next s.setIllegal := by
  simp [step, ha, hi, hd, raiseIllegalOpcode]

theorem step_inadmissible {s : State} (ha : s.cfg.admitted = false) : step s = refuseConfig s := by
  simp [step, ha]

/-! Runs. -/

theorem run_next {s t : State} (k : Nat) (h : step s = .next t) : Sys2Proof.core.run (k + 1) s = Sys2Proof.core.run k t := by
  have : Sys2Proof.core.step s = .next t := h
  simp only [Host.Core.run, this]

theorem run_fault {s : State} {r : Fault} (k : Nat) (h : step s = .fault r) :
    Sys2Proof.core.run (k + 1) s = .fault r := by
  have : Sys2Proof.core.step s = .fault r := h
  simp only [Host.Core.run, this]

theorem run_refused {s : State} {r : Refusal} (k : Nat) (h : step s = .refused r) :
    Sys2Proof.core.run (k + 1) s = .refused r := by
  have : Sys2Proof.core.step s = .refused r := h
  simp only [Host.Core.run, this]

/-! Host writes. -/

/-- Bytes written to a block that is not halted join the stream, in order (R70). -/
theorem State.hostWrites_running {s : State} (bs : List Byte) (h : s.illegal = false) :
    s.hostWrites bs = s.setStream (s.stream ++ bs) := by
  induction bs generalizing s with
  | nil => simp [State.hostWrites, State.setStream]
  | cons b bs ih =>
    have hb : s.hostWrite b = s.setStream (s.stream ++ [b]) := by simp [State.hostWrite, h]
    have := ih (s := s.setStream (s.stream ++ [b])) h
    simp only [State.hostWrites, List.foldl_cons, hb] at this ⊢
    rw [this]
    simp [State.setStream]

/-- Bytes written to a halted block are discarded (R223). -/
theorem State.hostWrites_halted {s : State} (bs : List Byte) (h : s.illegal = true) : s.hostWrites bs = s := by
  induction bs with
  | nil => rfl
  | cons b bs ih =>
    simp only [State.hostWrites, List.foldl_cons, State.hostWrite, h, if_true]
    exact ih

/-- The parts of the invariant. -/
theorem State.inv_iff (s : State) : s.inv = true ↔
    s.cfg.admitted = true ∧ s.fb.wf = true ∧ Memory.below s.cfg.nFb s.fb = true ∧ s.cp ≤ s.stream.length ∧
      bringUpConsistent s = true ∧ haltedAtIllegalByte s = true := by
  simp [State.inv, and_assoc]

end Sys2Proof.Machine
end

