-- ==== Sys2Proof/Machine/Assembler.lean ====
section
/-! DEFINITION. The textual form of a command (R81), as a list of characters. -/

namespace Sys2Proof.Machine

/-- A hexadecimal digit, capital letters as in R81's `0xAE`. -/
def hexDigit (n : Nat) : Char := ("0123456789ABCDEF".toList).getD n '0'

/-- The two hexadecimal digits of a byte. -/
def hexByte (b : Byte) : List Char := [hexDigit (b.toNat / 16), hexDigit (b.toNat % 16)]

/-- A signed decimal integer (R81). -/
def signedDecimal (v : Int) : List Char :=
  if v < 0 then '-' :: Nat.toDigits 10 v.natAbs else Nat.toDigits 10 v.natAbs

/-- An `s16` operand (R81). -/
def asmS16 (v : S16) : List Char := signedDecimal v.toInt

/-- A `u8` operand, in hexadecimal or in decimal (R81 allows both). -/
def asmU8 (hex : Bool) (b : Byte) : List Char :=
  if hex then "0x".toList ++ hexByte b else signedDecimal (b.toNat : Int)

/-- A byte of a text: printable ASCII as itself, any other byte as `\xHH` (R81). The double quote and the backslash are
escaped too. -/
def asmTextByte (b : Byte) : List Char :=
  if 32 ≤ b.toNat ∧ b.toNat ≤ 126 ∧ b.toNat ≠ 34 ∧ b.toNat ≠ 92 then [Char.ofNat b.toNat]
  else "\\x".toList ++ hexByte b

/-- A text operand in double quotes (R81). -/
def asmText (text : List Byte) : List Char := ['"'] ++ text.flatMap asmTextByte ++ ['"']

/-- A mnemonic and its operands, separated by commas (R81). -/
def asmLine (mnemonic : String) (operands : List (List Char)) : List Char :=
  match operands with
  | [] => mnemonic.toList
  | o :: os => mnemonic.toList ++ " ".toList ++ o ++ os.flatMap fun p => ", ".toList ++ p

/-- The textual form of a command (R81), its `u8` operands in hexadecimal or in decimal. -/
def asm (hex : Bool) : Instr → List Char
  | .init => asmLine "INIT" []
  | .clear => asmLine "CLEAR" []
  | .update => asmLine "UPDATE" []
  | .displayOff => asmLine "DISPLAY_OFF" []
  | .displayOn => asmLine "DISPLAY_ON" []
  | .sendCmd b => asmLine "SEND_CMD" [asmU8 hex b]
  | .sendData b => asmLine "SEND_DATA" [asmU8 hex b]
  | .setPixelOff x y => asmLine "SET_PIXEL_OFF" [asmS16 x, asmS16 y]
  | .setPixelOn x y => asmLine "SET_PIXEL_ON" [asmS16 x, asmS16 y]
  | .drawLine x0 y0 x1 y1 => asmLine "DRAW_LINE" [asmS16 x0, asmS16 y0, asmS16 x1, asmS16 y1]
  | .drawRect x y w h => asmLine "DRAW_RECT" [asmS16 x, asmS16 y, asmS16 w, asmS16 h]
  | .fillRect x y w h => asmLine "FILL_RECT" [asmS16 x, asmS16 y, asmS16 w, asmS16 h]
  | .drawCircle x y r => asmLine "DRAW_CIRCLE" [asmS16 x, asmS16 y, asmS16 r]
  | .fillCircle x y r => asmLine "FILL_CIRCLE" [asmS16 x, asmS16 y, asmS16 r]
  | .drawChar x y c => asmLine "DRAW_CHAR" [asmS16 x, asmS16 y, asmU8 hex c]
  | .drawString x y text => asmLine "DRAW_STRING" [asmS16 x, asmS16 y, asmText text]

end Sys2Proof.Machine
end

