-- ==== Sys2Proof/Machine/Candidate.lean ====
section
/-! DEFINITION. The candidate values of 93_implementation_defined.md Part 3. PRESUMED (general knowledge, not the
source, K5): no definition of the machine uses this file; it makes concrete traces possible, and no statement rests on
it. -/

namespace Sys2Proof

/-- Candidate glyphs of the codes 33 to 48. -/
def candidateGlyphs33 : List Glyph :=
  [ #v[0x00#8, 0x00#8, 0x5F#8, 0x00#8, 0x00#8],
    #v[0x00#8, 0x07#8, 0x00#8, 0x07#8, 0x00#8],
    #v[0x14#8, 0x7F#8, 0x14#8, 0x7F#8, 0x14#8],
    #v[0x24#8, 0x2A#8, 0x7F#8, 0x2A#8, 0x12#8],
    #v[0x23#8, 0x13#8, 0x08#8, 0x64#8, 0x62#8],
    #v[0x36#8, 0x49#8, 0x55#8, 0x22#8, 0x50#8],
    #v[0x00#8, 0x05#8, 0x03#8, 0x00#8, 0x00#8],
    #v[0x00#8, 0x1C#8, 0x22#8, 0x41#8, 0x00#8],
    #v[0x00#8, 0x41#8, 0x22#8, 0x1C#8, 0x00#8],
    #v[0x14#8, 0x08#8, 0x3E#8, 0x08#8, 0x14#8],
    #v[0x08#8, 0x08#8, 0x3E#8, 0x08#8, 0x08#8],
    #v[0x00#8, 0x50#8, 0x30#8, 0x00#8, 0x00#8],
    #v[0x08#8, 0x08#8, 0x08#8, 0x08#8, 0x08#8],
    #v[0x00#8, 0x60#8, 0x60#8, 0x00#8, 0x00#8],
    #v[0x20#8, 0x10#8, 0x08#8, 0x04#8, 0x02#8],
    #v[0x3E#8, 0x51#8, 0x49#8, 0x45#8, 0x3E#8] ]

/-- Candidate glyphs of the codes 49 to 64. -/
def candidateGlyphs49 : List Glyph :=
  [ #v[0x00#8, 0x42#8, 0x7F#8, 0x40#8, 0x00#8],
    #v[0x42#8, 0x61#8, 0x51#8, 0x49#8, 0x46#8],
    #v[0x21#8, 0x41#8, 0x45#8, 0x4B#8, 0x31#8],
    #v[0x18#8, 0x14#8, 0x12#8, 0x7F#8, 0x10#8],
    #v[0x27#8, 0x45#8, 0x45#8, 0x45#8, 0x39#8],
    #v[0x3C#8, 0x4A#8, 0x49#8, 0x49#8, 0x30#8],
    #v[0x01#8, 0x71#8, 0x09#8, 0x05#8, 0x03#8],
    #v[0x36#8, 0x49#8, 0x49#8, 0x49#8, 0x36#8],
    #v[0x06#8, 0x49#8, 0x49#8, 0x29#8, 0x1E#8],
    #v[0x00#8, 0x36#8, 0x36#8, 0x00#8, 0x00#8],
    #v[0x00#8, 0x56#8, 0x36#8, 0x00#8, 0x00#8],
    #v[0x08#8, 0x14#8, 0x22#8, 0x41#8, 0x00#8],
    #v[0x14#8, 0x14#8, 0x14#8, 0x14#8, 0x14#8],
    #v[0x00#8, 0x41#8, 0x22#8, 0x14#8, 0x08#8],
    #v[0x02#8, 0x01#8, 0x51#8, 0x09#8, 0x06#8],
    #v[0x32#8, 0x49#8, 0x79#8, 0x41#8, 0x3E#8] ]

/-- Candidate glyphs of the codes 65 to 80. -/
def candidateGlyphs65 : List Glyph :=
  [ #v[0x7E#8, 0x11#8, 0x11#8, 0x11#8, 0x7E#8],
    #v[0x7F#8, 0x49#8, 0x49#8, 0x49#8, 0x36#8],
    #v[0x3E#8, 0x41#8, 0x41#8, 0x41#8, 0x22#8],
    #v[0x7F#8, 0x41#8, 0x41#8, 0x22#8, 0x1C#8],
    #v[0x7F#8, 0x49#8, 0x49#8, 0x49#8, 0x41#8],
    #v[0x7F#8, 0x09#8, 0x09#8, 0x09#8, 0x01#8],
    #v[0x3E#8, 0x41#8, 0x49#8, 0x49#8, 0x7A#8],
    #v[0x7F#8, 0x08#8, 0x08#8, 0x08#8, 0x7F#8],
    #v[0x00#8, 0x41#8, 0x7F#8, 0x41#8, 0x00#8],
    #v[0x20#8, 0x40#8, 0x41#8, 0x3F#8, 0x01#8],
    #v[0x7F#8, 0x08#8, 0x14#8, 0x22#8, 0x41#8],
    #v[0x7F#8, 0x40#8, 0x40#8, 0x40#8, 0x40#8],
    #v[0x7F#8, 0x02#8, 0x0C#8, 0x02#8, 0x7F#8],
    #v[0x7F#8, 0x04#8, 0x08#8, 0x10#8, 0x7F#8],
    #v[0x3E#8, 0x41#8, 0x41#8, 0x41#8, 0x3E#8],
    #v[0x7F#8, 0x09#8, 0x09#8, 0x09#8, 0x06#8] ]

/-- Candidate glyphs of the codes 81 to 96. -/
def candidateGlyphs81 : List Glyph :=
  [ #v[0x3E#8, 0x41#8, 0x51#8, 0x21#8, 0x5E#8],
    #v[0x7F#8, 0x09#8, 0x19#8, 0x29#8, 0x46#8],
    #v[0x46#8, 0x49#8, 0x49#8, 0x49#8, 0x31#8],
    #v[0x01#8, 0x01#8, 0x7F#8, 0x01#8, 0x01#8],
    #v[0x3F#8, 0x40#8, 0x40#8, 0x40#8, 0x3F#8],
    #v[0x1F#8, 0x20#8, 0x40#8, 0x20#8, 0x1F#8],
    #v[0x3F#8, 0x40#8, 0x38#8, 0x40#8, 0x3F#8],
    #v[0x63#8, 0x14#8, 0x08#8, 0x14#8, 0x63#8],
    #v[0x07#8, 0x08#8, 0x70#8, 0x08#8, 0x07#8],
    #v[0x61#8, 0x51#8, 0x49#8, 0x45#8, 0x43#8],
    #v[0x00#8, 0x7F#8, 0x41#8, 0x41#8, 0x00#8],
    #v[0x02#8, 0x04#8, 0x08#8, 0x10#8, 0x20#8],
    #v[0x00#8, 0x41#8, 0x41#8, 0x7F#8, 0x00#8],
    #v[0x04#8, 0x02#8, 0x01#8, 0x02#8, 0x04#8],
    #v[0x40#8, 0x40#8, 0x40#8, 0x40#8, 0x40#8],
    #v[0x00#8, 0x01#8, 0x02#8, 0x04#8, 0x00#8] ]

/-- Candidate glyphs of the codes 97 to 112. -/
def candidateGlyphs97 : List Glyph :=
  [ #v[0x20#8, 0x54#8, 0x54#8, 0x54#8, 0x78#8],
    #v[0x7F#8, 0x48#8, 0x44#8, 0x44#8, 0x38#8],
    #v[0x38#8, 0x44#8, 0x44#8, 0x44#8, 0x20#8],
    #v[0x38#8, 0x44#8, 0x44#8, 0x48#8, 0x7F#8],
    #v[0x38#8, 0x54#8, 0x54#8, 0x54#8, 0x18#8],
    #v[0x08#8, 0x7E#8, 0x09#8, 0x01#8, 0x02#8],
    #v[0x0C#8, 0x52#8, 0x52#8, 0x52#8, 0x3E#8],
    #v[0x7F#8, 0x08#8, 0x04#8, 0x04#8, 0x78#8],
    #v[0x00#8, 0x44#8, 0x7D#8, 0x40#8, 0x00#8],
    #v[0x20#8, 0x40#8, 0x44#8, 0x3D#8, 0x00#8],
    #v[0x7F#8, 0x10#8, 0x28#8, 0x44#8, 0x00#8],
    #v[0x00#8, 0x41#8, 0x7F#8, 0x40#8, 0x00#8],
    #v[0x7C#8, 0x04#8, 0x18#8, 0x04#8, 0x78#8],
    #v[0x7C#8, 0x08#8, 0x04#8, 0x04#8, 0x78#8],
    #v[0x38#8, 0x44#8, 0x44#8, 0x44#8, 0x38#8],
    #v[0x7C#8, 0x14#8, 0x14#8, 0x14#8, 0x08#8] ]

/-- Candidate glyphs of the codes 113 to 126. -/
def candidateGlyphs113 : List Glyph :=
  [ #v[0x08#8, 0x14#8, 0x14#8, 0x18#8, 0x7C#8],
    #v[0x7C#8, 0x08#8, 0x04#8, 0x04#8, 0x08#8],
    #v[0x48#8, 0x54#8, 0x54#8, 0x54#8, 0x20#8],
    #v[0x04#8, 0x3F#8, 0x44#8, 0x40#8, 0x20#8],
    #v[0x3C#8, 0x40#8, 0x40#8, 0x20#8, 0x7C#8],
    #v[0x1C#8, 0x20#8, 0x40#8, 0x20#8, 0x1C#8],
    #v[0x3C#8, 0x40#8, 0x30#8, 0x40#8, 0x3C#8],
    #v[0x44#8, 0x28#8, 0x10#8, 0x28#8, 0x44#8],
    #v[0x0C#8, 0x50#8, 0x50#8, 0x50#8, 0x3C#8],
    #v[0x44#8, 0x64#8, 0x54#8, 0x4C#8, 0x44#8],
    #v[0x00#8, 0x08#8, 0x36#8, 0x41#8, 0x00#8],
    #v[0x00#8, 0x00#8, 0x7F#8, 0x00#8, 0x00#8],
    #v[0x00#8, 0x41#8, 0x36#8, 0x08#8, 0x00#8],
    #v[0x10#8, 0x08#8, 0x08#8, 0x10#8, 0x08#8] ]

/-- The candidate glyphs of the codes 33 to 126 as one list. -/
def candidateGlyphList : List Glyph :=
  candidateGlyphs33 ++ candidateGlyphs49 ++ candidateGlyphs65 ++ candidateGlyphs81 ++ candidateGlyphs97 ++ candidateGlyphs113

/-- The candidate glyph table (93 Part 3). -/
def candidateGlyphs : Vector Glyph 94 := ⟨candidateGlyphList.toArray, rfl⟩

/-- The candidate configuration of a block of the given size (93 Part 3): the wire bytes, the init list and the glyph
table. The candidate list gives no delays and no line levels; those stay the free values. -/
def candidateConfig (width height : Nat) (bg : GlyphBg) : Config :=
  { Config.openValues with
    width := width
    height := height
    hosts := 1
    devAddr := 0x3C#7
    opColAddr := 0x21#8
    opPageAddr := 0x22#8
    opDisplayOff := 0xAE#8
    opDisplayOn := 0xAF#8
    initClkDiv := (0xD5#8, 0x80#8)
    initMux := [0xA8#8]
    initOffset := [0xD3#8]
    initStartLine := [0x40#8]
    initChargePump := (0x8D#8, 0x14#8)
    initAddrMode := (0x20#8, 0x00#8)
    initSegRemap := [0xA1#8]
    initComScan := [0xC8#8]
    initComPins := (0xDA#8, 0x12#8)
    initContrast := (0x81#8, 0xCF#8)
    initPrecharge := (0xD9#8, 0xF1#8)
    initVcom := (0xDB#8, 0x40#8)
    initResume := [0xA4#8]
    initNormal := [0xA6#8]
    initNoScroll := [0x2E#8]
    glyphs := candidateGlyphs
    glyphBg := bg
    lineRaster := LineRaster.ofDefault }

end Sys2Proof
end

