-- ==== Sys2Proof/Tests/Slice0.lean ====
section
/-! SUPPORT. The model's own tests: the smoke test of WellFormed, words written out from R73 to R76, one or two single
steps of each command with the expected results of 95_test_vectors.md, and a witness for every statement that has
hypotheses. A configuration with candidate bytes (93 Part 3) is used where a vector uses it. -/

namespace Sys2Proof.Tests

open Sys2Proof Sys2Proof.Machine

/-! Helpers. -/

/-- A block of the given size with the candidate values, after reset, and what its environment answers. -/
def fresh (width height : Nat) (acks : List Bool) : State :=
  State.resetWith (candidateConfig width height .transparent) acks 0

/-- The reference block of the test vectors. -/
def ref : State := fresh 128 64 []

/-- The reference block in `OPAQUE` glyph mode. -/
def refOpaque : State := State.resetWith (candidateConfig 128 64 .opaqueCells) [] 0

/-- The next state of an outcome. -/
def nextOf : Host.Outcome State Fault Refusal → Option State
  | .next s => some s
  | .fault _ => none
  | .refused _ => none

/-- The framebuffer after a command. -/
def fbAfter (i : Instr) (s : State) : Option Memory := (nextOf (exec i s)).map State.fb

/-- The trace after a command. -/
def traceAfter (i : Instr) (s : State) : Option (List Event) := (nextOf (exec i s)).map State.trace

/-- STATUS after a command. -/
def statusAfter (i : Instr) (s : State) : Option (BitVec 8) := (nextOf (exec i s)).map State.status

/-! WellFormed: the one check refuses a text longer than the `u8` length can say (R72, R74). -/

theorem test_wellFormed_refuses_long_text :
    (Instr.drawString 0 0 (List.replicate 256 0x41#8)).wellFormed = false := by decide +kernel

theorem test_wellFormed_takes_longest_text :
    (Instr.drawString 0 0 (List.replicate 255 0x41#8)).wellFormed = true := by decide +kernel

/-! Decoding: words written out from R73 to R76, in 95_test_vectors.md V-E1 to V-E17. -/

/-- V-E1. -/
theorem test_decode_init : decode [0x01#8] = .command (.init) [] := by decide

/-- V-E1, the other way. -/
theorem test_encode_init : encode (.init) = [0x01#8] := by decide

/-- V-E2. -/
theorem test_decode_clear : decode [0x02#8] = .command (.clear) [] := by decide

/-- V-E2, the other way. -/
theorem test_encode_clear : encode (.clear) = [0x02#8] := by decide

/-- V-E3. -/
theorem test_decode_update : decode [0x03#8] = .command (.update) [] := by decide

/-- V-E3, the other way. -/
theorem test_encode_update : encode (.update) = [0x03#8] := by decide

/-- V-E4. -/
theorem test_decode_displayOff : decode [0x04#8] = .command (.displayOff) [] := by decide

/-- V-E4, the other way. -/
theorem test_encode_displayOff : encode (.displayOff) = [0x04#8] := by decide

/-- V-E5. -/
theorem test_decode_displayOn : decode [0x05#8] = .command (.displayOn) [] := by decide

/-- V-E5, the other way. -/
theorem test_encode_displayOn : encode (.displayOn) = [0x05#8] := by decide

/-- V-E6. -/
theorem test_decode_sendCmd : decode [0x06#8, 0xAE#8] = .command (.sendCmd 0xAE#8) [] := by decide

/-- V-E6, the other way. -/
theorem test_encode_sendCmd : encode (.sendCmd 0xAE#8) = [0x06#8, 0xAE#8] := by decide

/-- V-E7. -/
theorem test_decode_sendData : decode [0x07#8, 0x55#8] = .command (.sendData 0x55#8) [] := by decide

/-- V-E7, the other way. -/
theorem test_encode_sendData : encode (.sendData 0x55#8) = [0x07#8, 0x55#8] := by decide

/-- V-E8. -/
theorem test_decode_setPixelOff : decode [0x10#8, 0x05#8, 0x00#8, 0x09#8, 0x00#8] = .command (.setPixelOff 5 9) [] := by decide

/-- V-E8, the other way. -/
theorem test_encode_setPixelOff : encode (.setPixelOff 5 9) = [0x10#8, 0x05#8, 0x00#8, 0x09#8, 0x00#8] := by decide

/-- V-E9. -/
theorem test_decode_setPixelOn : decode [0x11#8, 0xFF#8, 0xFF#8, 0x2C#8, 0x01#8] = .command (.setPixelOn (-1) 300) [] := by decide

/-- V-E9, the other way. -/
theorem test_encode_setPixelOn : encode (.setPixelOn (-1) 300) = [0x11#8, 0xFF#8, 0xFF#8, 0x2C#8, 0x01#8] := by decide

/-- V-E10. -/
theorem test_decode_drawLine : decode [0x20#8, 0x00#8, 0x00#8, 0x00#8, 0x00#8, 0xFB#8, 0xFF#8, 0xFF#8, 0x7F#8] = .command (.drawLine 0 0 (-5) 32767) [] := by decide

/-- V-E10, the other way. -/
theorem test_encode_drawLine : encode (.drawLine 0 0 (-5) 32767) = [0x20#8, 0x00#8, 0x00#8, 0x00#8, 0x00#8, 0xFB#8, 0xFF#8, 0xFF#8, 0x7F#8] := by decide

/-- V-E11. -/
theorem test_decode_drawRect : decode [0x30#8, 0x01#8, 0x00#8, 0x01#8, 0x00#8, 0x04#8, 0x00#8, 0x03#8, 0x00#8] = .command (.drawRect 1 1 4 3) [] := by decide

/-- V-E11, the other way. -/
theorem test_encode_drawRect : encode (.drawRect 1 1 4 3) = [0x30#8, 0x01#8, 0x00#8, 0x01#8, 0x00#8, 0x04#8, 0x00#8, 0x03#8, 0x00#8] := by decide

/-- V-E12. -/
theorem test_decode_fillRect : decode [0x31#8, 0x00#8, 0x80#8, 0x00#8, 0x00#8, 0x00#8, 0x01#8, 0x08#8, 0x00#8] = .command (.fillRect (-32768) 0 256 8) [] := by decide

/-- V-E12, the other way. -/
theorem test_encode_fillRect : encode (.fillRect (-32768) 0 256 8) = [0x31#8, 0x00#8, 0x80#8, 0x00#8, 0x00#8, 0x00#8, 0x01#8, 0x08#8, 0x00#8] := by decide

/-- V-E13. -/
theorem test_decode_drawCircle : decode [0x40#8, 0x20#8, 0x00#8, 0x20#8, 0x00#8, 0x05#8, 0x00#8] = .command (.drawCircle 32 32 5) [] := by decide

/-- V-E13, the other way. -/
theorem test_encode_drawCircle : encode (.drawCircle 32 32 5) = [0x40#8, 0x20#8, 0x00#8, 0x20#8, 0x00#8, 0x05#8, 0x00#8] := by decide

/-- V-E14. -/
theorem test_decode_fillCircle : decode [0x41#8, 0x40#8, 0x00#8, 0x20#8, 0x00#8, 0xFE#8, 0xFF#8] = .command (.fillCircle 64 32 (-2)) [] := by decide

/-- V-E14, the other way. -/
theorem test_encode_fillCircle : encode (.fillCircle 64 32 (-2)) = [0x41#8, 0x40#8, 0x00#8, 0x20#8, 0x00#8, 0xFE#8, 0xFF#8] := by decide

/-- V-E15. -/
theorem test_decode_drawChar : decode [0x50#8, 0x00#8, 0x00#8, 0x00#8, 0x00#8, 0x41#8] = .command (.drawChar 0 0 0x41#8) [] := by decide

/-- V-E15, the other way. -/
theorem test_encode_drawChar : encode (.drawChar 0 0 0x41#8) = [0x50#8, 0x00#8, 0x00#8, 0x00#8, 0x00#8, 0x41#8] := by decide

/-- V-E16. -/
theorem test_decode_drawString : decode [0x51#8, 0x0A#8, 0x00#8, 0x14#8, 0x00#8, 0x02#8, 0x48#8, 0x69#8] = .command (.drawString 10 20 [0x48#8, 0x69#8]) [] := by decide

/-- V-E16, the other way. -/
theorem test_encode_drawString : encode (.drawString 10 20 [0x48#8, 0x69#8]) = [0x51#8, 0x0A#8, 0x00#8, 0x14#8, 0x00#8, 0x02#8, 0x48#8, 0x69#8] := by decide

/-- V-E17. -/
theorem test_decode_drawString_empty : decode [0x51#8, 0x00#8, 0x00#8, 0x00#8, 0x00#8, 0x00#8] = .command (.drawString 0 0 []) [] := by decide

/-- V-E17, the other way. -/
theorem test_encode_drawString_empty : encode (.drawString 0 0 []) = [0x51#8, 0x00#8, 0x00#8, 0x00#8, 0x00#8, 0x00#8] := by decide

/-- R71: in families 1 to 5 bits 3 to 1 of a legal opcode byte are 0; family 0 holds the numbers 1 to 7. -/
theorem test_opcode_fields :
    (opcodeMap.map Prod.fst).all (fun op => if op >>> 4 = 0#8 then decide (op ≤ 0x07#8 ∧ op ≠ 0x00#8)
      else op &&& 0x0E#8 == 0x00#8) = true ∧ opcodeMap.length = 16 := by decide

/-- R71: bit 0 is the source's `on` and `fill` argument. -/
theorem test_opcode_variant :
    ([false, true].map fun b => (SourceCall.drawRect 1 2 3 4 b).expand.map fun i => (encode i).head?) =
      [[some 0x30#8], [some 0x31#8]] ∧
    ([false, true].map fun b => (SourceCall.setPixel 1 2 b).expand.map fun i => (encode i).head?) =
      [[some 0x10#8], [some 0x11#8]] := by decide

/-- V-X1 to V-X5 (R77, R79). -/
theorem test_decode_illegal :
    ([0x00#8, 0x08#8, 0x12#8, 0x21#8, 0xFF#8].map fun b => decode [b]) =
      [0x00#8, 0x08#8, 0x12#8, 0x21#8, 0xFF#8].map Decoded.illegalOpcode := by decide

/-- V-X8 to V-X10 (R75). -/
theorem test_decode_incomplete :
    decode [0x11#8, 0x05#8, 0x00#8, 0x09#8] = .incomplete ∧
    decode [0x51#8, 0x00#8, 0x00#8, 0x00#8, 0x00#8] = .incomplete ∧
    decode [0x51#8, 0x00#8, 0x00#8, 0x00#8, 0x00#8, 0x02#8, 0x41#8] = .incomplete := by decide

/-- Bit 0 is the least significant bit of the first byte of a table word. -/
theorem test_decodeTableWord : decodeTableWord 16 0xAE06 = some (.sendCmd 0xAE#8) := by decide

theorem test_decodeTableWord_string : decodeTableWord 8 0x51 = some (.drawString 0 0 []) := by decide

/-! Single steps of the drawing commands (95_test_vectors.md L2). -/

/-- V-F1. -/
theorem test_setPixelOn :
    fbAfter (.setPixelOn 5 9) ref = some [(133, 0x02#8)] := by decide

/-- V-F3. -/
theorem test_setPixelOn_last :
    fbAfter (.setPixelOn 127 63) ref = some [(1023, 0x80#8)] := by decide

/-- V-F9. -/
theorem test_setPixelOff :
    fbAfter (.setPixelOff 5 9) { ref with fb := [(133, 0xFF#8)] } = some [(133, 0xFD#8)] := by decide

/-- V-F8. -/
theorem test_setPixelOn_clipped :
    fbAfter (.setPixelOn 32767 (-32768)) ref = some [] := by decide

/-- V-F13, two bytes of it. -/
theorem test_clear :
    fbAfter .clear { ref with fb := [(0, 0xFF#8), (1023, 0xFF#8)] } = some [] := by decide

/-- V-L1. -/
theorem test_drawLine :
    fbAfter (.drawLine 0 0 5 2) ref = some [(0, 0x01#8), (1, 0x01#8), (2, 0x02#8), (3, 0x02#8), (4, 0x04#8), (5, 0x04#8)] := by decide

/-- R123, R124: in a block whose `LINE_RASTER` takes the other pixel at ties, the line from (0, 0) to (4, 1) has (2, 1). -/
theorem test_drawLine_other_ties :
    fbAfter (.drawLine 0 0 4 1) { ref with cfg := { ref.cfg with lineRaster := ⟨true, []⟩ } } =
      some [(0, 0x01#8), (1, 0x01#8), (2, 0x02#8), (3, 0x02#8), (4, 0x02#8)] := by decide

/-- V-L11. -/
theorem test_drawLine_steep_up :
    fbAfter (.drawLine 10 10 8 5) ref = some [(8, 0x60#8), (9, 0x80#8), (137, 0x01#8), (138, 0x06#8)] := by decide

/-- V-R1. -/
theorem test_drawRect :
    fbAfter (.drawRect 1 1 4 3) ref = some [(1, 0x0E#8), (2, 0x0A#8), (3, 0x0A#8), (4, 0x0E#8)] := by decide

/-- V-R8. -/
theorem test_drawRect_clipped :
    fbAfter (.drawRect (-1) (-1) 3 3) ref = some [(0, 0x02#8), (1, 0x03#8)] := by decide

/-- V-R13. -/
theorem test_fillRect :
    fbAfter (.fillRect 126 62 4 4) ref = some [(1022, 0xC0#8), (1023, 0xC0#8)] := by decide

/-- V-R12. -/
theorem test_fillRect_empty :
    fbAfter (.fillRect 0 0 4 (-2)) ref = some [] := by decide

/-- V-C4. -/
theorem test_drawCircle :
    fbAfter (.drawCircle 32 32 3) ref = some [(413, 0x80#8), (414, 0x40#8), (415, 0x20#8), (416, 0x20#8), (417, 0x20#8), (418, 0x40#8), (419, 0x80#8), (541, 0x03#8), (542, 0x04#8), (543, 0x08#8), (544, 0x08#8), (545, 0x08#8), (546, 0x04#8), (547, 0x03#8)] := by decide

/-- V-C5. -/
theorem test_drawCircle_negative :
    fbAfter (.drawCircle 32 32 (-2)) ref = some [(416, 0x40#8), (542, 0x01#8), (544, 0x04#8), (546, 0x01#8)] := by decide

/-- V-C10. -/
theorem test_fillCircle :
    fbAfter (.fillCircle 32 32 3) ref = some [(413, 0x80#8), (414, 0xC0#8), (415, 0xE0#8), (416, 0xE0#8), (417, 0xE0#8), (418, 0xC0#8), (419, 0x80#8), (541, 0x03#8), (542, 0x07#8), (543, 0x0F#8), (544, 0x0F#8), (545, 0x0F#8), (546, 0x07#8), (547, 0x03#8)] := by decide

/-- V-C11. -/
theorem test_fillCircle_negative :
    fbAfter (.fillCircle 32 32 (-2)) ref = some [] := by decide

/-- V-T4. -/
theorem test_drawChar :
    fbAfter (.drawChar 0 (-3) 65) ref = some [(0, 0x0F#8), (1, 0x02#8), (2, 0x02#8), (3, 0x02#8), (4, 0x0F#8)] := by decide

/-- V-T9: in `OPAQUE` mode the cell is rewritten, and column 5 and row 7 are kept. -/
theorem test_drawChar_opaque :
    fbAfter (.drawChar 0 0 65) { refOpaque with fb := (List.range 8).map fun i => (i, 0xFF#8) } =
      some [(0, 0xFE#8), (1, 0x91#8), (2, 0x91#8), (3, 0x91#8), (4, 0xFE#8), (5, 0xFF#8), (6, 0xFF#8), (7, 0xFF#8)] := by decide

/-- V-T14. -/
theorem test_drawString :
    fbAfter (.drawString (-6) 0 [0x41#8, 0x42#8]) ref = some [(0, 0x7F#8), (1, 0x49#8), (2, 0x49#8), (3, 0x49#8), (4, 0x36#8)] := by decide

/-- V-T12. -/
theorem test_drawString_nul :
    fbAfter (.drawString 0 8 [0x41#8, 0x00#8, 0x42#8]) ref = some [(128, 0x7E#8), (129, 0x11#8), (130, 0x11#8), (131, 0x11#8), (132, 0x7E#8), (140, 0x7F#8), (141, 0x49#8), (142, 0x49#8), (143, 0x49#8), (144, 0x36#8)] := by decide

/-! Single steps of the protocol commands. -/

/-- V-P1. -/
theorem test_sendCmd : traceAfter (.sendCmd 0xA7#8) (fresh 128 64 [true]) = some [.txn [0x80#8, 0xA7#8] true] := by
  decide

/-- V-P2, with the acknowledgement 0. -/
theorem test_sendData :
    traceAfter (.sendData 0x00#8) (fresh 128 64 [false]) = some [.txn [0x40#8, 0x00#8] false] := by decide

/-- V-P9: the link state changes whatever the acknowledgement. -/
theorem test_displayOff :
    statusAfter .displayOff
      { fresh 128 64 [false] with link := .active, initDone := true, initOk := true } = some 0x0E#8 := by decide

/-- V-P7: exactly one event. -/
theorem test_displayOn :
    traceAfter .displayOn { fresh 128 64 [true] with link := .sleeping } = some [.txn [0x80#8, 0xAF#8] true] := by
  decide

/-- V-U 20x8: the last chunk is truncated to 4 bytes. -/
theorem test_update :
    traceAfter .update { fresh 20 8 (List.replicate 8 true) with fb := [(0, 0x81#8), (19, 0x7E#8)] } =
      some [.txn [0x80#8, 0x21#8] true, .txn [0x80#8, 0x00#8] true, .txn [0x80#8, 0x13#8] true,
        .txn [0x80#8, 0x22#8] true, .txn [0x80#8, 0x00#8] true, .txn [0x80#8, 0x00#8] true,
        .txn (0x40#8 :: 0x81#8 :: List.replicate 15 0x00#8) true,
        .txn [0x40#8, 0x00#8, 0x00#8, 0x00#8, 0x7E#8] true] := by decide

/-- V-U 128x64: 70 transactions. -/
theorem test_update_count : (traceAfter .update ref).map List.length = some 70 := by decide

/-- V-I1: 105 events. -/
theorem test_init_count : (traceAfter .init (fresh 128 64 [true])).map List.length = some 105 := by decide +kernel

/-- V-I1: the init list of 93 Part 3, byte by byte. -/
theorem test_initSeq :
    ref.cfg.initSeq =
      [0xAE#8, 0xD5#8, 0x80#8, 0xA8#8, 0x3F#8, 0xD3#8, 0x00#8, 0x40#8, 0x8D#8, 0x14#8, 0x20#8, 0x00#8, 0xA1#8, 0xC8#8,
        0xDA#8, 0x12#8, 0x81#8, 0xCF#8, 0xD9#8, 0xF1#8, 0xDB#8, 0x40#8, 0xA4#8, 0xA6#8, 0x2E#8, 0xAF#8] := by decide

/-- V-I3: INIT from `SLEEPING` whose probe is not acknowledged. -/
theorem test_init_fails :
    statusAfter .init
      { fresh 128 64 [false] with link := .sleeping, initDone := true, initOk := true, fb := [(5, 0x0F#8)] } =
      some 0x04#8 := by decide

/-! The step, the fault and the host port. -/

/-- V-X1: an illegal byte sets `ILLEGAL` and leaves `cp`; the halted block is a fault outcome. -/
theorem test_step_illegal :
    (nextOf (step (ref.hostWrites [0x60#8, 0x02#8]))).map (fun s => (s.status, s.cp, nextOf (step s))) =
      some (0x10#8, 0, none) := by decide

/-- V-X8: the block waits; the command is not executed. -/
theorem test_step_waits :
    (nextOf (step (ref.hostWrites [0x11#8, 0x05#8, 0x00#8, 0x09#8]))).map (fun s => (s.cp, s.fb, s.status)) =
      some (0, [], 0x00#8) := by decide

/-- V-X8: when the missing byte comes the command runs. -/
theorem test_step_resumes :
    (nextOf (step ((ref.hostWrites [0x11#8, 0x05#8, 0x00#8, 0x09#8]).hostWrite 0x00#8))).map (fun s => (s.cp, s.fb)) =
      some (5, [(133, 0x02#8)]) := by decide

/-- The first step after reset runs a word placed by `withFetchWord`. -/
theorem test_withFetchWord :
    (nextOf (step (State.reset.withFetchWord 8 0x02))).map (fun s => (s.cp, s.fb, s.illegal)) = some (1, [], false) := by
  decide

/-- R83: a text of 300 characters becomes two commands, the second 1530 columns further. -/
theorem test_split :
    (SourceCall.drawString 2 8 (List.replicate 300 0x41#8)).expand =
      [.drawString 2 8 (List.replicate 255 0x41#8), .drawString 1532 8 (List.replicate 45 0x41#8)] := by decide +kernel

/-- R81's examples. -/
theorem test_asm :
    asm true (.sendCmd 0xAE#8) = "SEND_CMD 0xAE".toList ∧ asm false (.setPixelOn 5 9) = "SET_PIXEL_ON 5, 9".toList ∧
    asm false (.drawChar 0 0 65) = "DRAW_CHAR 0, 0, 65".toList ∧
    asm false (.drawString 0 0 [0x41#8, 0x42#8]) = "DRAW_STRING 0, 0, \"AB\"".toList := by decide

/-! Witnesses: for each statement with hypotheses, a concrete state and operands that meet them together, at the ends of
a clause's range where it has one. Expected values come from the rules named in the statements. -/

/-- The reference block with one framebuffer byte, lines driven, an event recorded and a command waiting. -/
def dirty : State :=
  { ref with
    fb := [(133, 0x02#8)], cp := 1, link := .active, initDone := true, initOk := true, pwrEn := .on, rst := .run,
    busOpen := true, trace := [.busOpen], stream := [0x02#8, 0x60#8], illegal := true }

/-- The reference block with these bytes written into its command port. -/
def fed (bs : List Byte) : State := ref.hostWrites bs

theorem witness_ResetValues :
    dirty.applyReset = ref ∧ dirty.fb.read 133 ≠ 0x00#8 ∧ State.reset = State.resetWith Config.board [] 0 :=
  ⟨rfl, by decide, rfl⟩

/-- All eight values of STATUS are reached by states that meet the invariant. -/
theorem witness_StatusValues :
    ([ref, { dirty with link := .uninit, initOk := false, illegal := false },
      { dirty with illegal := false }, { dirty with link := .sleeping, illegal := false },
      { ref with illegal := true, stream := [0x60#8] }, { dirty with link := .uninit, initOk := false }, dirty,
      { dirty with link := .sleeping }].map fun s => (s.inv, s.status)) =
      [(true, 0x00#8), (true, 0x04#8), (true, 0x0D#8), (true, 0x0E#8), (true, 0x10#8), (true, 0x14#8), (true, 0x1D#8),
        (true, 0x1E#8)] := by decide

theorem witness_DecodeOfEncode :
    (Instr.fillRect (-32768) 32767 0 (-1)).wellFormed = true ∧
    (Instr.drawString 0 0 (List.replicate 255 0xFF#8)).wellFormed = true := by decide +kernel

theorem witness_EncodeOfDecode :
    decode [0x51#8, 0xFF#8, 0x7F#8, 0x00#8, 0x80#8, 0x01#8, 0x41#8, 0x02#8] =
      .command (.drawString 32767 (-32768) [0x41#8]) [0x02#8] := by decide

/-- Each side of the two equivalences is met: a legal and an illegal byte, a beginning of a command and a whole one. -/
theorem witness_IllegalOpcodeBytes :
    decode [0x07#8] = .incomplete ∧ decode [0x08#8, 0x01#8] = .illegalOpcode 0x08#8 ∧
    decode [0x51#8] = .incomplete ∧ decode [0x52#8] = .illegalOpcode 0x52#8 := by decide

theorem witness_IncompleteIsProperBeginning :
    decode [] = .incomplete ∧ encode .clear = [] ++ [0x02#8] ∧
    decode [0x06#8] = .incomplete ∧ encode (.sendCmd 0xAE#8) = [0x06#8] ++ [0xAE#8] := by decide

theorem witness_StepRunsDecodedCommand :
    ref.cfg.admitted = true ∧ (fed [0x06#8, 0xAE#8, 0x02#8]).illegal = false ∧
    (fed [0x06#8, 0xAE#8, 0x02#8]).pending = encode (.sendCmd 0xAE#8) ++ [0x02#8] := by decide

theorem witness_StepWaitsForBytes :
    (fed [0x11#8, 0x05#8]).cfg.admitted = true ∧ (fed [0x11#8, 0x05#8]).illegal = false ∧
    (fed [0x11#8, 0x05#8]).pending ++ [0x00#8, 0x09#8, 0x00#8] = encode (.setPixelOn 5 9) ∧
    ref.pending ++ [0x02#8] = encode .clear := by decide

theorem witness_IllegalOpcodeRaisesFault :
    (fed [0x60#8, 0x02#8]).cfg.admitted = true ∧ (fed [0x60#8, 0x02#8]).illegal = false ∧
    (fed [0x60#8, 0x02#8]).pending = 0x60#8 :: [0x02#8] := by decide

theorem witness_HaltIsFinal : dirty.illegal = true ∧ dirty.cfg.admitted = true := by decide

theorem witness_OnlyHaltedFaults : step dirty = .fault (.illegalOpcode 1 0x60#8) := by rfl

/-- The ends of the admitted ranges of R10, and each refusal. -/
theorem witness_OnlyInadmissibleRefused :
    step (fresh 1 8 []) = .next (fresh 1 8 []) ∧ step (fresh 256 256 []) = .next (fresh 256 256 []) ∧
    step (fresh 0 8 []) = .refused .sizeNotAdmitted ∧ step (fresh 257 8 []) = .refused .sizeNotAdmitted ∧
    step (fresh 128 0 []) = .refused .sizeNotAdmitted ∧ step (fresh 128 264 []) = .refused .sizeNotAdmitted ∧
    step (fresh 128 12 []) = .refused .sizeNotAdmitted ∧
    step { ref with cfg := { ref.cfg with hosts := 2 } } = .refused .notOneHost :=
  ⟨rfl, rfl, rfl, rfl, rfl, rfl, rfl, rfl⟩

theorem witness_StepKeepsInvariant :
    (fed [0x02#8]).inv = true ∧ (nextOf (step (fed [0x02#8]))).isSome = true ∧
    { dirty with illegal := false }.inv = true ∧ (nextOf (step { dirty with illegal := false })).isSome = true := by
  decide

theorem witness_HostWriteKeepsInvariant : ref.inv = true ∧ dirty.inv = true := by decide

theorem witness_LaterBytesDoNotMatter :
    (fed [0x02#8]).illegal = false ∧ decode (fed [0x02#8]).pending = .command .clear [] ∧
    (nextOf (step (fed [0x02#8]))).isSome = true := by decide

theorem witness_StreamRunsInOrder :
    (fed [0x02#8, 0x04#8, 0x06#8]).cfg.admitted = true ∧ (fed [0x02#8, 0x04#8, 0x06#8]).illegal = false ∧
    (∀ i ∈ [Instr.clear, .displayOff], i.wellFormed = true) ∧
    (fed [0x02#8, 0x04#8, 0x06#8]).pending = [Instr.clear, .displayOff].flatMap encode ++ [0x06#8] := by decide

theorem witness_WholeCommandsAreSafe :
    (fed [0x02#8, 0x04#8]).cfg.admitted = true ∧ (fed [0x02#8, 0x04#8]).illegal = false ∧
    (fed [0x02#8, 0x04#8]).pending = [Instr.clear, .displayOff].flatMap encode := by decide

theorem witness_PixelLayoutBijection :
    (fresh 1 8 []).cfg.sizeAdmitted = true ∧ (fresh 256 256 []).cfg.sizeAdmitted = true ∧
    pixelIndex ref.cfg 127 63 = 1023 ∧ pixelBit 63 = 7 ∧ ref.cfg.nFb = 1024 := by decide

theorem witness_PlotPixelLaws :
    dirty.fb.wf = true ∧ InFrame ref.cfg 0 0 ∧ InFrame ref.cfg 127 63 ∧ ¬InFrame ref.cfg 128 0 ∧
    ¬InFrame ref.cfg 0 (-1) := by decide

theorem witness_SetPixelOffResult :
    dirty.fb.wf = true ∧ InFrame dirty.cfg (5#16).toInt (9#16).toInt ∧ pixelAt dirty.cfg dirty.fb 5 9 = true ∧
    ¬InFrame dirty.cfg (5#16).toInt (64#16).toInt := by decide

theorem witness_SetPixelOnResult :
    ref.fb.wf = true ∧ InFrame ref.cfg (127#16).toInt (63#16).toInt ∧ ¬InFrame ref.cfg ((-1 : S16)).toInt (0#16).toInt := by
  decide

theorem witness_DrawingChangesOnlyFb : isDrawing .clear = true ∧ isDrawing (.drawString 0 0 []) = true := by decide

theorem witness_OtherCommandsKeepFb :
    isDrawing .update = false ∧ isDrawing .init = false ∧ (fresh 128 64 [false]).nextAck = false := by decide

theorem witness_DrawLineResult : dirty.fb.wf = true ∧ dirty.cfg.lineRaster = LineRaster.ofDefault := by decide

/-- R123 admits both pixels of the tie of a line from (0, 0) to (4, 1), and each is a value of the parameter; the pixels
that are no ties stay. -/
theorem witness_LineRasterIsOpen :
    lineRaster .ofDefault 0 0 4 1 =
      [⟨0, 0, true⟩, ⟨1, 0, true⟩, ⟨2, 0, true⟩, ⟨3, 1, true⟩, ⟨4, 1, true⟩] ∧
    lineRaster ⟨true, []⟩ 0 0 4 1 =
      [⟨0, 0, true⟩, ⟨1, 0, true⟩, ⟨2, 1, true⟩, ⟨3, 1, true⟩, ⟨4, 1, true⟩] ∧
    lineRaster ⟨false, [⟨0, 0, 4, 1, 2⟩]⟩ 0 0 4 1 = lineRaster ⟨true, []⟩ 0 0 4 1 ∧
    lineRaster ⟨true, [⟨1, 4, 0, 0, 2⟩]⟩ 1 4 0 0 = lineRaster .ofDefault 1 4 0 0 := by decide

/-- The pixel sets of the default meet the hypothesis of `Obligations.LineRasterIsOpen`. -/
theorem witness_LineRasterIsOpen_sets (x0 y0 x1 y1 : S16) :
    InLineEnvelope x0.toInt y0.toInt x1.toInt y1.toInt
      (PlotsPixel (lineDefault x0.toInt y0.toInt x1.toInt y1.toInt)) := lineDefault_envelope _ _ _ _

/-- V-L1 and V-L11: an x-major line, a point, a y-major line. -/
theorem witness_LineEnvelope :
    |(5 : Int) - 0| ≥ |(2 : Int) - 0| ∧ |(5 : Int) - 10| > |(8 : Int) - 10| ∧
    PlotsPixel (lineRaster .ofDefault 0 0 5 2) 2 1 ∧ PlotsPixel (lineRaster .ofDefault 3 4 3 4) 3 4 ∧
    PlotsPixel (lineRaster .ofDefault 10 10 8 5) 9 8 :=
  ⟨by decide, by decide, ⟨true, by decide⟩, ⟨true, by decide⟩, ⟨true, by decide⟩⟩

theorem witness_DrawRectResult : dirty.fb.wf = true ∧ (1#16).toInt > 0 ∧ (0#16).toInt ≤ 0 ∧ ((-1 : S16)).toInt ≤ 0 := by
  decide

theorem witness_FillRectResult : dirty.fb.wf = true ∧ (1#16).toInt > 0 ∧ (0#16).toInt ≤ 0 ∧ ((-1 : S16)).toInt ≤ 0 := by
  decide

theorem witness_OutlineWithinFill :
    PlotsPixel (rectOutline 1 1 4 3) 4 2 ∧ PlotsPixel (rectFill 0 0 2 8) 1 7 :=
  ⟨⟨true, by decide⟩, ⟨true, by decide⟩⟩

/-- R143, R144: for `r = 2` one step reaches `(px, py) = (1, 2)` and one more `(2, 1)`. -/
theorem witness_CircleLoopFollowsRule :
    circleSteps (-2) = [] ∧ circleSteps 0 = [] ∧
    (circleSteps 2).map (fun c => (c.px, c.py)) = [(1, 2), (2, 1)] := by decide

theorem witness_CircleArithmeticBound :
    (circleInit ((-32768 : S16)).toInt).ddFy = 65536 ∧ (circleSteps (3#16).toInt).length = 2 := by decide

theorem witness_DrawCircleResult : dirty.fb.wf = true := by decide

theorem witness_FillCircleResult : dirty.fb.wf = true := by decide

theorem witness_DiskContainsOutline :
    PlotsPixel (circleOutline 32 32 0) 32 32 ∧ PlotsPixel (circleOutline 32 32 2) 34 31 ∧
    PlotsPixel (circleOutline 32 32 2) 34 33 ∧ PlotsPixel (circleFill 32 32 2) 34 32 :=
  ⟨⟨true, by decide⟩, ⟨true, by decide⟩, ⟨true, by decide⟩, ⟨true, by decide⟩⟩

theorem witness_DrawCharResult : dirty.fb.wf = true := by decide

theorem witness_CodesAreSubstituted :
    ([31#8, 127#8, 200#8].map glyphCode) = [32, 32, 32] ∧ ([32#8, 33#8, 126#8].map glyphCode) = [32, 33, 126] ∧
    ([32#8, 33#8, 126#8, 127#8].map fun k => decide (33 ≤ k.toNat ∧ k.toNat ≤ 126)) = [false, true, true, false] := by
  decide

theorem witness_DrawStringResult : dirty.fb.wf = true := by decide

theorem witness_StringIsItsCharacters :
    (32761#16).toInt + 6 * (([0x41#8, 0x42#8].length : Int) - 1) ≤ 32767 ∧
    (0#16).toInt + 6 * ((([] : List Byte).length : Int) - 1) ≤ 32767 := by decide

theorem witness_SplitStringDrawsTheSame : ref.cfg.sizeAdmitted = true := by decide

/-- The first and the truncated last chunk of a 20 by 8 framebuffer (R189). -/
theorem witness_DataStream :
    (dataTxns (fresh 20 8 []).cfg [])[0]? = some (0x40#8 :: List.replicate 16 0x00#8) ∧
    (dataTxns (fresh 20 8 []).cfg [])[1]? = some (0x40#8 :: List.replicate 4 0x00#8) := by decide

theorem witness_InitProbeFails : (fresh 128 64 [false]).ackAt 0 = false := by decide

theorem witness_InitProbeSucceeds : (fresh 128 64 [true]).ackAt 0 = true := by decide

theorem witness_AcksDecideNothingElse :
    (fresh 128 64 [true, false]).ackAt 0 = State.ackAt { fresh 128 64 [true, false] with acks := [true], draws := 7 } 0 ∧
    (fresh 128 64 [true, false]).ackAt 1 = false := by decide

theorem witness_OnlyInitWritesBringUp : Instr.displayOff ≠ .init := by decide

end Sys2Proof.Tests
end

section
/-! Which configurations `step` refuses (00_scope.md section 4, 20_memory.md section 4). -/

namespace Sys2Proof.Machine

/-- R10. -/
theorem sizeAdmitted_iff (c : Config) : c.sizeAdmitted = true ↔
    c.height % 8 = 0 ∧ 8 ≤ c.height ∧ c.height ≤ 256 ∧ 1 ≤ c.width ∧ c.width ≤ 256 := by
  simp [Config.sizeAdmitted, and_assoc]

/-- R10 and R63. -/
theorem admitted_iff (c : Config) : c.admitted = true ↔ c.sizeAdmitted = true ∧ c.hosts = 1 := by
  simp [Config.admitted, Config.oneHost]

/-- Every arm of the dispatch answers a next state. -/
theorem exec_completes (i : Instr) (s : State) : ∃ t, exec i s = .next t := by
  cases i <;> exact ⟨_, rfl⟩

/-- A block that is admitted and not halted runs a command, waits, or records an illegal byte: each is a next state. -/
theorem step_running {s : State} (ha : s.cfg.admitted = true) (hi : s.illegal = false) : ∃ t, step s = .next t := by
  cases hd : decode s.pending with
  | command i rest => rw [step_command ha hi hd]; exact exec_completes i s
  | incomplete => exact ⟨_, step_incomplete ha hi hd⟩
  | illegalOpcode op => exact ⟨_, step_illegal ha hi hd⟩

theorem step_ne_refused {s : State} (ha : s.cfg.admitted = true) (r : Refusal) : step s ≠ .refused r := by
  cases hi : s.illegal with
  | true => rw [step_halted ha hi]; nofun
  | false =>
    obtain ⟨t, ht⟩ := step_running ha hi
    rw [ht]; nofun

/-- The size is checked first: the number of hosts is the reason only when the size is admitted (log entry 8). -/
theorem refuseConfig_eq_refused_iff (s : State) (r : Refusal) : refuseConfig s = .refused r ↔
    r = if s.cfg.sizeAdmitted then .notOneHost else .sizeNotAdmitted := by
  cases hc : s.cfg.sizeAdmitted <;> simp [refuseConfig, hc, eq_comm]

theorem step_eq_refused_iff (s : State) (r : Refusal) : step s = .refused r ↔
    s.cfg.admitted = false ∧ r = if s.cfg.sizeAdmitted then .notOneHost else .sizeNotAdmitted := by
  cases ha : s.cfg.admitted with
  | true => simp [step_ne_refused ha]
  | false => simp [step_inadmissible ha, refuseConfig_eq_refused_iff]

theorem exists_step_refused_iff (s : State) : (∃ r, step s = .refused r) ↔ ¬ s.cfg.admitted = true := by
  simp [step_eq_refused_iff]

theorem step_sizeNotAdmitted_iff (s : State) :
    step s = .refused .sizeNotAdmitted ↔ ¬ s.cfg.sizeAdmitted = true := by
  rw [step_eq_refused_iff]
  cases hc : s.cfg.sizeAdmitted with
  | true => simp
  | false => simp [Config.admitted, hc]

/-- Settles O16: a step refuses exactly when `admitted` fails, and names the size exactly when `sizeAdmitted` fails. -/
theorem onlyInadmissibleRefused : Obligations.OnlyInadmissibleRefused := by
  intro s
  refine ⟨?_, ?_⟩
  · rw [exists_step_refused_iff, admitted_iff, sizeAdmitted_iff]
    simp only [and_assoc]
  · rw [step_sizeNotAdmitted_iff, sizeAdmitted_iff]

end Sys2Proof.Machine
end

section
/-! What the decoder has read, said from the bytes: each format's reader takes the bytes the encoder writes for it
(30_encoding.md, R73 to R76). -/

namespace Sys2Proof

/-- Two bytes of the port are the encoding of the `s16` they make (R73). -/
@[simp] theorem bytesOfS16_s16OfBytes (b0 b1 : Byte) : bytesOfS16 (s16OfBytes b0 b1) = [b0, b1] := by
  simp [bytesOfS16]

/-- A reader and an opcode byte agree with the encoder: what the reader reads is encoded by the bytes it was read
from. -/
def ReadsEncoded (op : Byte) (read : OperandReader) : Prop :=
  ∀ (bs : List Byte) (i : Instr) (rest : List Byte), read bs = some (i, rest) → encode i ++ rest = op :: bs

theorem readsEncoded_readN {op : Byte} {i : Instr} (he : encode i = [op]) : ReadsEncoded op (readN i) := by
  intro bs j rest h
  cases h
  simp [he]

theorem readsEncoded_readB {op : Byte} {k : Byte → Instr} (he : ∀ b, encode (k b) = [op, b]) :
    ReadsEncoded op (readB k) := by
  intro bs i rest h
  unfold readB at h
  split at h <;> cases h
  simp [he]

theorem readsEncoded_readP {op : Byte} {k : S16 → S16 → Instr}
    (he : ∀ x y, encode (k x y) = op :: (bytesOfS16 x ++ bytesOfS16 y)) : ReadsEncoded op (readP k) := by
  intro bs i rest h
  unfold readP at h
  split at h <;> cases h
  simp [he]

theorem readsEncoded_readT {op : Byte} {k : S16 → S16 → S16 → Instr}
    (he : ∀ x y r, encode (k x y r) = op :: (bytesOfS16 x ++ bytesOfS16 y ++ bytesOfS16 r)) :
    ReadsEncoded op (readT k) := by
  intro bs i rest h
  unfold readT at h
  split at h <;> cases h
  simp [he]

theorem readsEncoded_readQ {op : Byte} {k : S16 → S16 → S16 → S16 → Instr}
    (he : ∀ a b c d, encode (k a b c d) = op :: (bytesOfS16 a ++ bytesOfS16 b ++ bytesOfS16 c ++ bytesOfS16 d)) :
    ReadsEncoded op (readQ k) := by
  intro bs i rest h
  unfold readQ at h
  split at h <;> cases h
  simp [he]

theorem readsEncoded_readG {op : Byte} {k : S16 → S16 → Byte → Instr}
    (he : ∀ x y c, encode (k x y c) = op :: (bytesOfS16 x ++ bytesOfS16 y ++ [c])) : ReadsEncoded op (readG k) := by
  intro bs i rest h
  unfold readG at h
  split at h <;> cases h
  simp [he]

theorem readsEncoded_readS {op : Byte} {k : S16 → S16 → List Byte → Instr}
    (he : ∀ x y text, encode (k x y text) =
      op :: (bytesOfS16 x ++ bytesOfS16 y ++ BitVec.ofNat 8 text.length :: text)) : ReadsEncoded op (readS k) := by
  intro bs i rest h
  unfold readS at h
  split at h
  · split at h
    · next htext =>
      obtain ⟨hlen, rfl⟩ := takeText_eq_some htext
      cases h
      simp [he, hlen]
    · cases h
  · cases h

/-- Every entry of the opcode map (R76) agrees with the encoder. -/
theorem readsEncoded_of_mem_opcodeMap : ∀ entry ∈ opcodeMap, ReadsEncoded entry.1 entry.2 := by
  simp only [opcodeMap, List.forall_mem_cons, List.not_mem_nil, false_implies, implies_true, and_true]
  exact ⟨readsEncoded_readN rfl, readsEncoded_readN rfl, readsEncoded_readN rfl, readsEncoded_readN rfl,
    readsEncoded_readN rfl, readsEncoded_readB fun _ => rfl, readsEncoded_readB fun _ => rfl,
    readsEncoded_readP fun _ _ => rfl, readsEncoded_readP fun _ _ => rfl,
    readsEncoded_readQ fun _ _ _ _ => rfl, readsEncoded_readQ fun _ _ _ _ => rfl,
    readsEncoded_readQ fun _ _ _ _ => rfl, readsEncoded_readT fun _ _ _ => rfl, readsEncoded_readT fun _ _ _ => rfl,
    readsEncoded_readG fun _ _ _ => rfl, readsEncoded_readS fun _ _ _ => rfl⟩

/-- The bytes a command was decoded from are its encoding, then the bytes after it (R75). -/
theorem encode_append_of_decode {bs : List Byte} {i : Instr} {rest : List Byte} (h : decode bs = .command i rest) :
    encode i ++ rest = bs := by
  unfold decode at h
  split at h
  · cases h
  · split at h
    · cases h
    · next hlookup =>
      split at h
      · next hread =>
        cases h
        obtain ⟨_, _, hmap, -⟩ := List.lookup_eq_some_iff.1 hlookup
        exact readsEncoded_of_mem_opcodeMap (_, _) (by simp [hmap]) _ _ _ hread
      · cases h

end Sys2Proof
end

section
/-! What a command can do, said once: a drawing command puts a framebuffer, a transfer makes bus transactions and may
move the link state, and INIT ends in one of two ways. What a command leaves unchanged is read off from there. -/

namespace Sys2Proof.Machine

/-- The effects of commands: `CommandEffect s i t` when `t` is a state the command `i` may leave from `s`. -/
inductive CommandEffect (s : State) : Instr → State → Prop where
  /-- CLEAR (R102). -/
  | clears : CommandEffect s .clear ((s.setFb Memory.cleared).advance lenN)
  /-- A command that plots pixels (R100). -/
  | plots {i : Instr} (ps : List Plot) (hd : isDrawing i = true) :
      CommandEffect s i ((s.plot ps).advance (commandLength i))
  /-- A command of bus transactions, which may move `link` but neither to nor from `UNINIT` (R194). -/
  | transfers {i : Instr} (txns : List (List Byte)) (l : Link) (hd : isDrawing i = false) (hi : i ≠ .init)
      (hl : l = .uninit ↔ s.link = .uninit) :
      CommandEffect s i (((s.busTxns txns).setLink l).advance (commandLength i))
  /-- INIT whose probe is not acknowledged (R202). -/
  | initFails (ha : s.nextAck = false) : CommandEffect s .init (s.bringUp.probe.initFail.advance lenN)
  /-- INIT whose probe is acknowledged (R203). -/
  | initSucceeds (ha : s.nextAck = true) : CommandEffect s .init (s.bringUp.probe.initSucceed.advance lenN)

theorem linkAfterOff_eq_uninit_iff (l : Link) : linkAfterOff l = .uninit ↔ l = .uninit := by
  cases l <;> simp [linkAfterOff]

theorem linkAfterOn_eq_uninit_iff (l : Link) : linkAfterOn l = .uninit ↔ l = .uninit := by
  cases l <;> simp [linkAfterOn]

theorem State.busTxns_setLink_self (s : State) (txns : List (List Byte)) :
    (s.busTxns txns).setLink s.link = s.busTxns txns := by
  rw [← State.busTxns_link s txns]; rfl

/-- A transfer that leaves `link` alone. -/
theorem CommandEffect.transfersOnly {s : State} {i : Instr} (txns : List (List Byte)) (hd : isDrawing i = false)
    (hi : i ≠ .init) : CommandEffect s i ((s.busTxns txns).advance (commandLength i)) := by
  have h := CommandEffect.transfers txns s.link hd hi Iff.rfl
  rwa [State.busTxns_setLink_self] at h

/-- Every command completes, with one of the effects. -/
theorem exec_effect (i : Instr) (s : State) : ∃ t, exec i s = .next t ∧ CommandEffect s i t := by
  cases i with
  | init =>
    cases ha : s.nextAck with
    | false => exact ⟨_, exec_init_failure s ha, .initFails ha⟩
    | true => exact ⟨_, exec_init_success s ha, .initSucceeds ha⟩
  | clear => exact ⟨_, rfl, .clears⟩
  | update => exact ⟨_, exec_update s, .transfersOnly _ rfl nofun⟩
  | displayOff => exact ⟨_, rfl, .transfers [_] _ rfl nofun (linkAfterOff_eq_uninit_iff _)⟩
  | displayOn => exact ⟨_, rfl, .transfers [_] _ rfl nofun (linkAfterOn_eq_uninit_iff _)⟩
  | sendCmd b => exact ⟨_, rfl, .transfersOnly [_] rfl nofun⟩
  | sendData b => exact ⟨_, rfl, .transfersOnly [_] rfl nofun⟩
  | setPixelOff x y => exact ⟨_, rfl, .plots _ rfl⟩
  | setPixelOn x y => exact ⟨_, rfl, .plots _ rfl⟩
  | drawLine x0 y0 x1 y1 => exact ⟨_, rfl, .plots _ rfl⟩
  | drawRect x y w h => exact ⟨_, rfl, .plots _ rfl⟩
  | fillRect x y w h => exact ⟨_, rfl, .plots _ rfl⟩
  | drawCircle x y r => exact ⟨_, rfl, .plots _ rfl⟩
  | fillCircle x y r => exact ⟨_, rfl, .plots _ rfl⟩
  | drawChar x y c => exact ⟨_, rfl, .plots _ rfl⟩
  | drawString x y text => exact ⟨_, rfl, .plots _ rfl⟩

theorem effect_of_exec {i : Instr} {s t : State} (h : exec i s = .next t) : CommandEffect s i t := by
  obtain ⟨t', ht', he⟩ := exec_effect i s
  cases h.symm.trans ht'
  exact he

/-! What each effect writes and leaves alone. -/

namespace CommandEffect

variable {s t : State} {i : Instr}

theorem cp_eq (h : CommandEffect s i t) : t.cp = s.cp + (encode i).length := by
  rw [encode_length]
  cases h <;> simp [commandLength]

theorem cfg_eq (h : CommandEffect s i t) : t.cfg = s.cfg := by
  cases h <;> simp

theorem stream_eq (h : CommandEffect s i t) : t.stream = s.stream := by
  cases h <;> simp

theorem illegal_eq (h : CommandEffect s i t) : t.illegal = s.illegal := by
  cases h <;> simp

/-- R122, R256. -/
theorem onlyFbChanged (h : CommandEffect s i t) (hd : isDrawing i = true) :
    OnlyFbChanged (encode i).length s t := by
  rw [encode_length]
  cases h with
  | clears => rfl
  | plots ps _ => rfl
  | transfers txns l hd' => simp [hd] at hd'
  | initFails _ => cases hd
  | initSucceeds _ => cases hd

/-- R25, R107: apart from the drawing commands, only the INIT that succeeds writes `FB`. -/
theorem fb_eq (h : CommandEffect s i t) (hd : isDrawing i = false) (hi : i = .init → s.nextAck = false) :
    t.fb = s.fb := by
  cases h with
  | clears => cases hd
  | plots ps hd' => simp [hd] at hd'
  | transfers txns l => simp
  | initFails _ => simp
  | initSucceeds ha => simp [ha] at hi

/-- The canonical form of the framebuffer is kept (R54). -/
theorem fb_wf (h : CommandEffect s i t) (hm : s.fb.wf = true) : t.fb.wf = true := by
  cases h with
  | clears => rfl
  | plots ps _ => exact wf_plotAll _ _ hm
  | transfers txns l => simpa using hm
  | initFails _ => simpa using hm
  | initSucceeds _ => simp

/-- No command forms an index outside `0 .. N_FB - 1` (R54). -/
theorem fb_below (h : CommandEffect s i t) (hc : s.cfg.sizeAdmitted = true) (hm : s.fb.below s.cfg.nFb = true) :
    t.fb.below s.cfg.nFb = true := by
  cases h with
  | clears => rfl
  | plots ps _ => exact below_plotAll hc _ hm
  | transfers txns l => simpa using hm
  | initFails _ => simpa using hm
  | initSucceeds _ => simp

/-- The registers of the bring-up stay in agreement: INIT writes them together (R29, R195), and no other command moves
`link` to or from `UNINIT` (R194). -/
theorem bringUp_consistent (h : CommandEffect s i t) (hb : bringUpConsistent s = true) :
    bringUpConsistent t = true := by
  cases h with
  | clears => exact hb
  | plots ps _ => exact hb
  | transfers txns l _ _ hl => simpa [bringUpConsistent, hl] using hb
  | initFails _ => simp [bringUpConsistent]
  | initSucceeds _ => simp [bringUpConsistent]

end CommandEffect

/-- What a step that answers a next state was: a command, a wait, or the raise of the fault, in an admitted block that
is not halted (R75, R221). -/
theorem step_cases {s t : State} (h : step s = .next t) :
    s.cfg.admitted = true ∧ s.illegal = false ∧
      ((∃ i rest, decode s.pending = .command i rest ∧ exec i s = .next t) ∨
        (decode s.pending = .incomplete ∧ t = s) ∨
        (∃ op, decode s.pending = .illegalOpcode op ∧ t = s.setIllegal)) := by
  have ha : s.cfg.admitted = true := by
    by_contra hn
    obtain ⟨r, hr⟩ := (exists_step_refused_iff s).2 hn
    cases h.symm.trans hr
  have hi : s.illegal = false := by
    by_contra hn
    cases h.symm.trans (step_halted ha (Bool.eq_true_of_not_eq_false hn))
  refine ⟨ha, hi, ?_⟩
  cases hd : decode s.pending with
  | command i rest => exact .inl ⟨i, rest, rfl, (step_command ha hi hd).symm.trans h⟩
  | incomplete =>
    cases h.symm.trans (step_incomplete ha hi hd)
    exact .inr (.inl ⟨rfl, rfl⟩)
  | illegalOpcode op =>
    cases h.symm.trans (step_illegal ha hi hd)
    exact .inr (.inr ⟨op, rfl, rfl⟩)

end Sys2Proof.Machine
end

section
/-! The block's state: the invariant, STATUS, and what commands leave unchanged (10_state.md). -/

namespace Sys2Proof.Machine

/-! The invariant. -/

/-- A decoded command lies wholly in the bytes of the port, so `cp` does not pass their end (R24, R75). -/
theorem cp_add_encode_length_le {s : State} {i : Instr} {rest : List Byte} (hcp : s.cp ≤ s.stream.length)
    (hd : decode s.pending = .command i rest) : s.cp + (encode i).length ≤ s.stream.length := by
  have hlen := congrArg List.length (encode_append_of_decode hd)
  simp only [State.pending, List.length_append, List.length_drop] at hlen
  omega

theorem exec_keeps_inv {s t : State} {i : Instr} {rest : List Byte} (hs : s.inv = true) (hi : s.illegal = false)
    (hd : decode s.pending = .command i rest) (he : exec i s = .next t) : t.inv = true := by
  have e := effect_of_exec he
  rw [State.inv_iff] at hs ⊢
  obtain ⟨hadm, hwf, hbelow, hcp, hbring, -⟩ := hs
  rw [e.cfg_eq, e.cp_eq, e.stream_eq]
  have hrun : haltedAtIllegalByte t = true := by simp [haltedAtIllegalByte, e.illegal_eq, hi]
  exact ⟨hadm, e.fb_wf hwf, e.fb_below ((admitted_iff _).1 hadm).1 hbelow, cp_add_encode_length_le hcp hd,
    e.bringUp_consistent hbring, hrun⟩

theorem setIllegal_keeps_inv {s : State} {op : Byte} (hs : s.inv = true)
    (hd : decode s.pending = .illegalOpcode op) : s.setIllegal.inv = true := by
  rw [State.inv_iff] at hs ⊢
  obtain ⟨hadm, hwf, hbelow, hcp, hbring, -⟩ := hs
  have hpending : s.setIllegal.pending = s.pending := rfl
  exact ⟨hadm, hwf, hbelow, hcp, hbring, by simp [haltedAtIllegalByte, hpending, hd]⟩

/-- Settles O17: a command keeps each part of the invariant, a wait changes nothing, and the raise of the fault stands
at the illegal byte it met. -/
theorem stepKeepsInvariant : Obligations.StepKeepsInvariant := by
  intro s t hs h
  obtain ⟨-, hi, ⟨i, rest, hd, he⟩ | ⟨-, rfl⟩ | ⟨op, hd, rfl⟩⟩ := step_cases h
  · exact exec_keeps_inv hs hi hd he
  · exact hs
  · exact setIllegal_keeps_inv hs hd

/-! STATUS. -/

/-- The bits of STATUS from the lowest up (R27). -/
theorem statusWith_getLsbD (s : State) (busy : Bool) (k : Nat) :
    (s.statusWith busy).getLsbD k =
      if k < 2 then (linkCode s.link).getLsbD k
      else ([s.initDone, s.initOk, s.illegal, false, false, busy][k - 2]?).getD false := by
  have hlink : (s.statusWith busy).getLsbD k = _ := BitVec.getLsbD_append
  rw [hlink]
  simp only [BitVec.getLsbD_append]
  split_ifs with h0 h1 h2 h3 h4
  · rfl
  · simp [show k = 2 by omega]
  · simp [show k = 3 by omega]
  · simp [show k = 4 by omega]
  · obtain rfl | rfl : k = 5 ∨ k = 6 := by omega
    all_goals rfl
  · obtain ⟨j, rfl⟩ : ∃ j, k = j + 7 := ⟨k - 7, by omega⟩
    cases j <;> simp

theorem statusWith_link (s : State) (busy : Bool) :
    (s.statusWith busy).extractLsb' 0 2 = linkCode s.link := by
  apply BitVec.eq_of_getLsbD_eq
  intro k hk
  rw [BitVec.getLsbD_extractLsb', Nat.zero_add, statusWith_getLsbD, if_pos hk]
  simp [hk]

/-- Settles O3: each field is a bit of the list `statusWith_getLsbD` gives, and BUSY is 0 between commands (R28). -/
theorem statusFields : Obligations.StatusFields := by
  intro s busy
  rw [statusWith_link, State.status]
  simp only [statusWith_getLsbD]
  refine ⟨?_, rfl, rfl, rfl, rfl, rfl, rfl, rfl⟩
  cases s.link <;> rfl

/-- Where the bring-up registers agree, `init_ok` says whether the link is up, and needs `init_done` (R29, R194). -/
theorem initOk_of_bringUpConsistent {s : State} (h : bringUpConsistent s = true) :
    s.initOk = decide (s.link ≠ .uninit) ∧ (s.initOk = true → s.initDone = true) := by
  simp only [bringUpConsistent, Bool.and_eq_true, beq_iff_eq] at h
  obtain ⟨⟨⟨⟨hok, hdone⟩, -⟩, -⟩, -⟩ := h
  exact ⟨hok, fun hi => by simpa [hi] using hdone⟩

/-- Settles O4: `link` decides `init_ok`, and a link that is up fixes `init_done`; only `illegal`, and the `init_done` of
a link that is down, stay free. -/
theorem statusValues : Obligations.StatusValues := by
  intro s hs
  obtain ⟨-, -, -, -, hbring, -⟩ := s.inv_iff.1 hs
  obtain ⟨hok, hdone⟩ := initOk_of_bringUpConsistent hbring
  rw [State.status, State.statusWith]
  cases hl : s.link with
  | uninit =>
    rw [show s.initOk = false by simp [hok, hl]]
    cases s.illegal <;> cases s.initDone <;> decide
  | active | sleeping =>
    rw [show s.initOk = true by simp [hok, hl], hdone (by simp [hok, hl])]
    cases s.illegal <;> decide

/-! What commands leave unchanged. -/

/-- Settles O11: every command has one of the effects, and each advances `cp` and keeps the other three. -/
theorem everyCommandCompletes : Obligations.EveryCommandCompletes := by
  intro i s
  obtain ⟨t, ht, e⟩ := exec_effect i s
  exact ⟨t, ht, e.cp_eq, e.cfg_eq, e.stream_eq, e.illegal_eq⟩

/-- Settles O27: a drawing command has the effect of CLEAR or of a list of plots. -/
theorem drawingChangesOnlyFb : Obligations.DrawingChangesOnlyFb := by
  intro i s hd
  obtain ⟨t, ht, e⟩ := exec_effect i s
  exact ⟨t, ht, e.onlyFbChanged hd⟩

/-- Settles O28: of the commands that do not draw, only the INIT that succeeds writes `FB`, and its probe is
acknowledged. -/
theorem otherCommandsKeepFb : Obligations.OtherCommandsKeepFb := by
  intro i s hd hi
  obtain ⟨t, ht, e⟩ := exec_effect i s
  exact ⟨t, ht, e.fb_eq hd hi⟩

/-- Settles O59: INIT ends in one of its two ways, by the first draw; plots and transfers touch none of the registers
named. -/
theorem onlyInitWritesBringUp : Obligations.OnlyInitWritesBringUp := by
  refine ⟨fun s => ?_, fun i s hi => ?_⟩
  · obtain ⟨t, ht, e⟩ := exec_effect .init s
    refine ⟨t, ht, ?_⟩
    rw [State.ackAt_zero]
    cases e with
    | plots _ hd => cases hd
    | transfers _ _ _ hi => exact absurd rfl hi
    | initFails ha => simp [ha]
    | initSucceeds ha => simp [ha]
  · obtain ⟨t, ht, e⟩ := exec_effect i s
    refine ⟨t, ht, ?_⟩
    cases e with
    | clears => simp
    | plots _ _ => simp
    | transfers _ _ => simp
    | initFails _ => exact absurd rfl hi
    | initSucceeds _ => exact absurd rfl hi

end Sys2Proof.Machine
end

section
/-! The bytes the encoder writes are read back as the command they encode, whatever follows them (30_encoding.md,
R73 to R76). -/

namespace Sys2Proof

/-- The two branches of the decoder that lead to a command: the opcode byte names a reader, and the reader finds its
operands. -/
theorem decode_cons_of_read {op : Byte} {read : OperandReader} {bs : List Byte} {i : Instr} {rest : List Byte}
    (hop : opcodeMap.lookup op = some read) (hread : read bs = some (i, rest)) :
    decode (op :: bs) = .command i rest := by
  simp [decode, hop, hread]

/-! What the reader of each format with `s16` operands takes from their encodings (R74). -/

theorem readP_bytes (k : S16 → S16 → Instr) (x y : S16) (rest : List Byte) :
    readP k (bytesOfS16 x ++ bytesOfS16 y ++ rest) = some (k x y, rest) := by
  simp [readP, bytesOfS16]

theorem readT_bytes (k : S16 → S16 → S16 → Instr) (x y r : S16) (rest : List Byte) :
    readT k (bytesOfS16 x ++ bytesOfS16 y ++ bytesOfS16 r ++ rest) = some (k x y r, rest) := by
  simp [readT, bytesOfS16]

theorem readQ_bytes (k : S16 → S16 → S16 → S16 → Instr) (x y w h : S16) (rest : List Byte) :
    readQ k (bytesOfS16 x ++ bytesOfS16 y ++ bytesOfS16 w ++ bytesOfS16 h ++ rest) = some (k x y w h, rest) := by
  simp [readQ, bytesOfS16]

theorem readG_bytes (k : S16 → S16 → Byte → Instr) (x y : S16) (c : Byte) (rest : List Byte) :
    readG k (bytesOfS16 x ++ bytesOfS16 y ++ [c] ++ rest) = some (k x y c, rest) := by
  simp [readG, bytesOfS16]

/-- The length byte `n` of format `S` holds the length of a text that fits it (R74, R81). -/
theorem readS_bytes (k : S16 → S16 → List Byte → Instr) (x y : S16) {text : List Byte} (rest : List Byte)
    (ht : textFits text = true) :
    readS k (bytesOfS16 x ++ bytesOfS16 y ++ BitVec.ofNat 8 text.length :: text ++ rest) = some (k x y text, rest) := by
  have hlen : text.length % 256 = text.length := by
    simp only [textFits, decide_eq_true_eq] at ht
    omega
  simp [readS, bytesOfS16, hlen, takeText_append]

/-- A well-formed command at the front of the port is decoded, and the bytes after it are left (R75). -/
theorem decode_encode_append {i : Instr} (rest : List Byte) (hwf : i.wellFormed = true) :
    decode (encode i ++ rest) = .command i rest := by
  cases i with
  | init | clear | update | displayOff | displayOn => exact decode_cons_of_read rfl rfl
  | sendCmd b | sendData b => exact decode_cons_of_read rfl rfl
  | setPixelOff x y | setPixelOn x y => exact decode_cons_of_read rfl (readP_bytes _ x y rest)
  | drawLine x y w h | drawRect x y w h | fillRect x y w h =>
    exact decode_cons_of_read rfl (readQ_bytes _ x y w h rest)
  | drawCircle x y r | fillCircle x y r => exact decode_cons_of_read rfl (readT_bytes _ x y r rest)
  | drawChar x y c => exact decode_cons_of_read rfl (readG_bytes _ x y c rest)
  | drawString x y text => exact decode_cons_of_read rfl (readS_bytes _ x y rest hwf)

end Sys2Proof
end

section
/-! The command port runs its commands in order (20_memory.md, R60). -/

namespace Sys2Proof.Machine

/-- A command consumes its own bytes of the port and no others (R24, R75). -/
theorem CommandEffect.pending_eq {s t : State} {i : Instr} {rest : List Byte} (h : CommandEffect s i t)
    (hp : s.pending = encode i ++ rest) : t.pending = rest := by
  rw [State.pending] at hp ⊢
  rw [h.cp_eq, h.stream_eq, ← List.drop_drop, hp, List.drop_left]

theorem execAll_cons {s t : State} {i : Instr} (is : List Instr) (h : exec i s = .next t) :
    execAll (i :: is) s = execAll is t := by
  simp only [execAll, h]

/-- Settles O20, by induction on the commands: the step on the first one is its meaning, and leaves a block of the same
configuration, still not halted, with the bytes of the others pending. -/
theorem streamRunsInOrder : Obligations.StreamRunsInOrder := by
  intro s is rest ha hi hwf hp
  induction is generalizing s with
  | nil => exact ⟨s, rfl, rfl, hp⟩
  | cons i is ih =>
    rw [List.flatMap_cons, List.append_assoc] at hp
    obtain ⟨hwfi, hwfis⟩ := List.forall_mem_cons.1 hwf
    obtain ⟨t, he, heff⟩ := exec_effect i s
    have hd : decode s.pending = .command i (is.flatMap encode ++ rest) := by
      rw [hp, decode_encode_append _ hwfi]
    have hstep : step s = .next t := (step_command ha hi hd).trans he
    rw [List.length_cons, run_next _ hstep, execAll_cons is he]
    exact ih t (heff.cfg_eq ▸ ha) (heff.illegal_eq.trans hi) hwfis (heff.pending_eq hp)

end Sys2Proof.Machine
end

section
/-! The layout of the framebuffer: pixels and the bits of its bytes (20_memory.md, R50 to R52). -/

namespace Sys2Proof.Machine

/-- Coordinates that are natural numbers are in the framebuffer when they are below its sizes. -/
theorem inFrame_natCast (c : Config) (x y : Nat) : InFrame c x y ↔ x < c.width ∧ y < c.height := by
  simp [InFrame]

/-- The framebuffer holds `PAGES` rows of `WIDTH` bytes (R9, R51). -/
theorem nFb_eq_mul {c : Config} (hc : c.sizeAdmitted = true) : c.nFb = c.width * (c.height / 8) :=
  Nat.mul_div_assoc _ (Nat.dvd_of_mod_eq_zero ((sizeAdmitted_iff c).1 hc).1)

/-- `pixelIndex_lt` for natural coordinates. -/
theorem pixelIndex_lt_nFb {c : Config} {x y : Nat} (hc : c.sizeAdmitted = true) (hx : x < c.width)
    (hy : y < c.height) : pixelIndex c x y < c.nFb :=
  pixelIndex_lt hc ((inFrame_natCast c x y).2 ⟨hx, hy⟩)

theorem pixelAt_natCast {c : Config} {x y : Nat} (m : Memory) (hx : x < c.width) (hy : y < c.height) :
    pixelAt c m x y = (m.read (x + y / 8 * c.width)).getLsbD (y % 8) :=
  if_pos ((inFrame_natCast c x y).2 ⟨hx, hy⟩)

/-- Byte `x` of page `p` holds the rows from `8p` on (R51). -/
theorem pixelIndex_page (c : Config) (p x : Nat) {k : Nat} (hk : k < 8) :
    pixelIndex c x (8 * p + k) = p * c.width + x := by
  rw [pixelIndex, show (8 * p + k) / 8 = p by omega, Nat.add_comm]

/-- Row `8p + k` is bit `k` of its byte (R51). -/
theorem pixelBit_page (p : Nat) {k : Nat} (hk : k < 8) : pixelBit (8 * p + k) = k := by
  rw [pixelBit]
  omega

/-- The column of a pixel, from the index of its byte (R52). -/
theorem pixelIndex_mod_width {c : Config} {x : Nat} (y : Nat) (hx : x < c.width) :
    pixelIndex c x y % c.width = x := by
  rw [pixelIndex, Nat.add_mul_mod_self_right, Nat.mod_eq_of_lt hx]

/-- The page of a pixel, from the index of its byte (R52). -/
theorem pixelIndex_div_width {c : Config} {x : Nat} (y : Nat) (hx : x < c.width) :
    pixelIndex c x y / c.width = y / 8 := by
  rw [pixelIndex, Nat.add_mul_div_right _ _ (by omega), Nat.div_eq_of_lt hx, Nat.zero_add]

/-- A byte of the framebuffer lies in one of its pages. -/
theorem div_width_lt_pages {c : Config} {i : Nat} (hc : c.sizeAdmitted = true) (hi : i < c.nFb) :
    i / c.width < c.height / 8 :=
  Nat.div_lt_of_lt_mul (nFb_eq_mul hc ▸ hi)

/-- The pixel of bit `k` of byte `i`, and no other pixel, has that byte and that bit (R52). -/
theorem pixel_of_bit_iff {c : Config} {i k : Nat} (hc : c.sizeAdmitted = true) (hi : i < c.nFb) (hk : k < 8)
    (x y : Nat) :
    (x < c.width ∧ y < c.height ∧ pixelIndex c x y = i ∧ pixelBit y = k) ↔
      (x = i % c.width ∧ y = 8 * (i / c.width) + k) := by
  constructor
  · rintro ⟨hx, -, rfl, rfl⟩
    rw [pixelIndex_mod_width y hx, pixelIndex_div_width y hx]
    exact ⟨rfl, (Nat.div_add_mod y 8).symm⟩
  · rintro ⟨rfl, rfl⟩
    obtain ⟨-, -, -, hw, -⟩ := (sizeAdmitted_iff c).1 hc
    have hpage := div_width_lt_pages hc hi
    refine ⟨Nat.mod_lt _ hw, by omega, ?_, pixelBit_page _ hk⟩
    rw [pixelIndex_page c _ _ hk, Nat.div_add_mod']

/-- Settles O22: the two directions of the layout, and the inverse read off from quotient and remainder by `WIDTH`. -/
theorem pixelLayoutBijection : Obligations.PixelLayoutBijection := by
  intro c hc
  exact ⟨fun x y hx hy => ⟨rfl, pixelIndex_lt_nFb hc hx hy, rfl, fun m => pixelAt_natCast m hx hy⟩,
    fun p x k _ _ hk => ⟨pixelIndex_page c p x hk, pixelBit_page p hk⟩, fun i k hi hk => pixel_of_bit_iff hc hi hk⟩

end Sys2Proof.Machine
end

section
/-! The decoder and the encoder as inverses, the illegal opcode bytes, and when the decoder waits (30_encoding.md,
R70 to R77). -/

namespace Sys2Proof

/-- Settles O5: the law `decode_encode_append`, which goes through the formats of R74. -/
theorem decodeOfEncode : Obligations.DecodeOfEncode :=
  fun _ rest hwf => decode_encode_append rest hwf

/-- A command with no byte after it. -/
theorem decode_of_encode_eq {bs : List Byte} {i : Instr} (he : encode i = bs) (hwf : i.wellFormed = true) :
    decode bs = .command i [] := by
  rw [← he, ← List.append_nil (encode i), decode_encode_append [] hwf]

/-- Settles O9: each word is the encoding of its command. -/
theorem specWordsDecode : Obligations.SpecWordsDecode :=
  ⟨decode_of_encode_eq rfl rfl, decode_of_encode_eq rfl rfl, decode_of_encode_eq rfl rfl,
    decode_of_encode_eq rfl rfl, decode_of_encode_eq rfl rfl, decode_of_encode_eq rfl rfl,
    decode_of_encode_eq rfl rfl⟩

/-! The decoder behind the opcode byte: the byte names a reader or is illegal, and the reader reads or waits (R75). -/

theorem decode_cons_eq_command_iff {op : Byte} {bs : List Byte} {i : Instr} {rest : List Byte} :
    decode (op :: bs) = .command i rest ↔
      ∃ read, opcodeMap.lookup op = some read ∧ read bs = some (i, rest) := by
  simp only [decode]
  cases hlookup : opcodeMap.lookup op with
  | none => simp
  | some read => cases hread : read bs <;> simp [hread, Prod.ext_iff]

theorem decode_cons_eq_incomplete_iff {op : Byte} {bs : List Byte} :
    decode (op :: bs) = .incomplete ↔ ∃ read, opcodeMap.lookup op = some read ∧ read bs = none := by
  simp only [decode]
  cases hlookup : opcodeMap.lookup op with
  | none => simp
  | some read => cases hread : read bs <;> simp [hread]

theorem decode_cons_eq_illegalOpcode_iff {op op' : Byte} {bs : List Byte} :
    decode (op :: bs) = .illegalOpcode op' ↔ op = op' ∧ opcodeMap.lookup op = none := by
  simp only [decode]
  cases hlookup : opcodeMap.lookup op with
  | none => simp
  | some read => cases hread : read bs <;> simp [hread]

/-! Decoded commands are well-formed. -/

/-- The text that the reader of format `S` takes is as long as a byte says (R74). -/
theorem textFits_of_readS {x y : S16} {text bs rest : List Byte}
    (h : readS .drawString bs = some (.drawString x y text, rest)) : textFits text = true := by
  unfold readS at h
  split at h
  · next n _ =>
    split at h
    · next htext =>
      obtain ⟨hlen, -⟩ := takeText_eq_some htext
      cases h
      have hn := n.isLt
      simp only [textFits, decide_eq_true_eq]
      omega
    · cases h
  · cases h

/-- A decoded command is well-formed: only a DRAW_STRING could fail to be, and its text was read (R72, R74). -/
theorem wellFormed_of_decode {bs : List Byte} {i : Instr} {rest : List Byte} (h : decode bs = .command i rest) :
    i.wellFormed = true := by
  cases i with
  | drawString x y text =>
    rw [← encode_append_of_decode h] at h
    obtain ⟨read, hlookup, hread⟩ := decode_cons_eq_command_iff.1 h
    cases hlookup
    exact textFits_of_readS hread
  | _ => rfl

/-- Settles O6: a decoded command's bytes are its encoding, and its text, if it has one, fits. -/
theorem encodeOfDecode : Obligations.EncodeOfDecode :=
  fun _ _ _ h => ⟨wellFormed_of_decode h, encode_append_of_decode h⟩

/-! Illegal opcode bytes. -/

/-- The legal opcode bytes are those the opcode map lists (R76, R77). -/
theorem lookup_opcodeMap_eq_none_iff {op : Byte} :
    opcodeMap.lookup op = none ↔ op ∉ opcodeMap.map Prod.fst := by
  rw [List.lookup_eq_none_iff, List.mem_map]
  constructor
  · rintro h ⟨entry, hmem, rfl⟩
    simpa using h entry hmem
  · intro h entry hmem
    exact bne_iff_ne.2 fun he => h ⟨entry, hmem, he.symm⟩

/-- Of the numbers below `n`, those missing from a list of some of them. -/
theorem length_filter_range_notMem {n : Nat} {ks : List Nat} (hnd : ks.Nodup) (hlt : ∀ k ∈ ks, k < n) :
    ((List.range n).filter fun k => decide (k ∉ ks)).length = n - ks.length := by
  have hperm : ((List.range n).filter fun k => decide (k ∈ ks)).Perm ks := by
    rw [List.perm_ext_iff_of_nodup (List.nodup_range.filter _) hnd]
    intro k
    simpa using hlt k
  have hsum := List.length_eq_length_filter_add (l := List.range n) fun k => decide (k ∈ ks)
  rw [hperm.length_eq, List.length_range] at hsum
  simp only [decide_not]
  omega

/-- The number of a byte is illegal when it is not the number of a legal one. -/
theorem decode_ofNat_eq_illegalOpcode_iff {n : Nat} (hn : n < 256) :
    decode [BitVec.ofNat 8 n] = .illegalOpcode (BitVec.ofNat 8 n) ↔
      n ∉ (opcodeMap.map Prod.fst).map BitVec.toNat := by
  rw [decode_cons_eq_illegalOpcode_iff, lookup_opcodeMap_eq_none_iff, List.mem_map (f := BitVec.toNat)]
  have hof : ∀ op : Byte, op.toNat = n ↔ op = BitVec.ofNat 8 n := by
    intro op
    rw [← BitVec.toNat_inj, BitVec.toNat_ofNat, Nat.mod_eq_of_lt hn]
  simp [hof]

/-- Settles O7: a byte is illegal when the opcode map does not list it, and the 16 it lists leave 240. -/
theorem illegalOpcodeBytes : Obligations.IllegalOpcodeBytes := by
  refine ⟨fun op bs => ?_, ?_⟩
  · simp only [decode_cons_eq_illegalOpcode_iff, exists_eq_left', lookup_opcodeMap_eq_none_iff]
    rfl
  · rw [List.filter_congr fun n hn => decide_eq_decide.2 (decode_ofNat_eq_illegalOpcode_iff (List.mem_range.1 hn)),
      length_filter_range_notMem (by decide) (by decide)]
    rfl

/-! When the decoder waits. -/

/-- An illegal opcode byte stays illegal whatever bytes follow (R75 step 2). -/
theorem decode_append_of_illegalOpcode {bs : List Byte} {op : Byte} (more : List Byte)
    (h : decode bs = .illegalOpcode op) : decode (bs ++ more) = .illegalOpcode op := by
  cases bs with
  | nil => cases h
  | cons b bs =>
    rw [decode_cons_eq_illegalOpcode_iff] at h
    rwa [List.cons_append, decode_cons_eq_illegalOpcode_iff]

/-- A proper beginning of a command is neither a command, since the rest of it would be left over, nor illegal: the
block waits (R75 step 4). -/
theorem decode_incomplete_of_append {bs more : List Byte} {i : Instr} (hwf : i.wellFormed = true) (hm : more ≠ [])
    (he : bs ++ more = encode i) : decode bs = .incomplete := by
  have hi : decode (bs ++ more) = .command i [] := decode_of_encode_eq he.symm hwf
  cases hd : decode bs with
  | incomplete => rfl
  | illegalOpcode op => cases hi.symm.trans (decode_append_of_illegalOpcode more hd)
  | command j rest =>
    rw [← encode_append_of_decode hd, List.append_assoc, decode_encode_append _ (wellFormed_of_decode hd)] at hi
    obtain ⟨-, hnil⟩ := Decoded.command.inj hi
    exact absurd (List.append_eq_nil_iff.1 hnil).2 hm

/-- Whatever bytes a reader finds too few, there are bytes that would complete the command. -/
def Completable (read : OperandReader) : Prop :=
  ∀ bs, read bs = none → ∃ (more : List Byte) (i : Instr), read (bs ++ more) = some (i, [])

/-- A reader of `n` operand bytes: it finds a command in them, whatever they are. -/
def ReadsBytes (n : Nat) (read : OperandReader) : Prop :=
  ∀ bs : List Byte, n ≤ bs.length → ∃ i, read bs = some (i, bs.drop n)

theorem length_append_replicate_sub {n : Nat} {bs : List Byte} (b : Byte) (h : bs.length ≤ n) :
    (bs ++ List.replicate (n - bs.length) b).length = n := by
  rw [List.length_append, List.length_replicate, Nat.add_sub_cancel' h]

theorem ReadsBytes.completable {n : Nat} {read : OperandReader} (hr : ReadsBytes n read) : Completable read := by
  intro bs h
  have hlt : bs.length < n := by
    by_contra hge
    obtain ⟨i, hi⟩ := hr bs (by omega)
    cases h.symm.trans hi
  have hlen := length_append_replicate_sub 0x00#8 hlt.le
  obtain ⟨i, hi⟩ := hr _ hlen.ge
  exact ⟨_, i, by rw [hi, List.drop_eq_nil_of_le hlen.le]⟩

/-- Two bytes that are present are an `s16` operand (R73). -/
theorem exists_bytesOfS16_append {n : Nat} {bs : List Byte} (h : n + 2 ≤ bs.length) :
    ∃ (v : S16) (rest : List Byte), bs = bytesOfS16 v ++ rest ∧ n ≤ rest.length := by
  obtain ⟨b0, bs, rfl⟩ := List.exists_cons_of_length_pos (show 0 < bs.length by omega)
  simp only [List.length_cons] at h
  obtain ⟨b1, bs, rfl⟩ := List.exists_cons_of_length_pos (show 0 < bs.length by omega)
  simp only [List.length_cons] at h
  exact ⟨s16OfBytes b0 b1, bs, by simp, by omega⟩

theorem readsBytes_readB (k : Byte → Instr) : ReadsBytes 1 (readB k) := by
  intro bs h
  obtain ⟨b, rest, rfl⟩ := List.exists_cons_of_length_pos h
  exact ⟨_, rfl⟩

theorem readsBytes_readP (k : S16 → S16 → Instr) : ReadsBytes 4 (readP k) := by
  intro bs h
  obtain ⟨x, xs, rfl, hx⟩ := exists_bytesOfS16_append h
  obtain ⟨y, rest, rfl, -⟩ := exists_bytesOfS16_append hx
  exact ⟨_, readP_bytes k x y rest⟩

theorem readsBytes_readT (k : S16 → S16 → S16 → Instr) : ReadsBytes 6 (readT k) := by
  intro bs h
  obtain ⟨x, xs, rfl, hx⟩ := exists_bytesOfS16_append h
  obtain ⟨y, ys, rfl, hy⟩ := exists_bytesOfS16_append hx
  obtain ⟨r, rest, rfl, -⟩ := exists_bytesOfS16_append hy
  exact ⟨_, readT_bytes k x y r rest⟩

theorem readsBytes_readQ (k : S16 → S16 → S16 → S16 → Instr) : ReadsBytes 8 (readQ k) := by
  intro bs h
  obtain ⟨x, xs, rfl, hx⟩ := exists_bytesOfS16_append h
  obtain ⟨y, ys, rfl, hy⟩ := exists_bytesOfS16_append hx
  obtain ⟨z, zs, rfl, hz⟩ := exists_bytesOfS16_append hy
  obtain ⟨w, rest, rfl, -⟩ := exists_bytesOfS16_append hz
  exact ⟨_, readQ_bytes k x y z w rest⟩

theorem readsBytes_readG (k : S16 → S16 → Byte → Instr) : ReadsBytes 5 (readG k) := by
  intro bs h
  obtain ⟨x, xs, rfl, hx⟩ := exists_bytesOfS16_append h
  obtain ⟨y, ys, rfl, hy⟩ := exists_bytesOfS16_append hx
  obtain ⟨c, rest, rfl⟩ := List.exists_cons_of_length_pos hy
  exact ⟨_, readG_bytes k x y c rest⟩

/-- Behind its length byte format `S` lacks what is missing of the text (R74). -/
theorem readS_eq_none_iff {k : S16 → S16 → List Byte → Instr} {x y : S16} {n : Byte} {text : List Byte} :
    readS k (bytesOfS16 x ++ (bytesOfS16 y ++ n :: text)) = none ↔ text.length < n.toNat := by
  rw [← takeText_eq_none]
  simp only [readS, bytesOfS16, List.cons_append, List.nil_append]
  cases takeText n.toNat text <;> simp

/-- A text as long as the length byte says is taken whole. -/
theorem readS_of_length_eq {k : S16 → S16 → List Byte → Instr} {x y : S16} {n : Byte} {text : List Byte}
    (h : text.length = n.toNat) :
    readS k (bytesOfS16 x ++ bytesOfS16 y ++ n :: text) = some (k x y text, []) := by
  have hfits : textFits text = true := by
    have := n.isLt
    simp only [textFits, decide_eq_true_eq]
    omega
  simpa [h] using readS_bytes k x y [] hfits

theorem exists_bytesOfS16_of_length_four {bs : List Byte} (h : bs.length = 4) :
    ∃ x y : S16, bs = bytesOfS16 x ++ bytesOfS16 y := by
  obtain ⟨x, xs, rfl, hx⟩ := exists_bytesOfS16_append h.ge
  obtain ⟨y, rest, rfl, -⟩ := exists_bytesOfS16_append hx
  obtain rfl : rest = [] := by simpa [bytesOfS16] using h
  exact ⟨x, y, by rw [List.append_nil]⟩

/-- Format `S` has no fixed length. With its length byte it is completed by the bytes of text that are missing; without
it, to a command of the empty text. -/
theorem completable_readS (k : S16 → S16 → List Byte → Instr) : Completable (readS k) := by
  intro bs h
  by_cases hlen : 5 ≤ bs.length
  · obtain ⟨x, xs, rfl, hx⟩ := exists_bytesOfS16_append hlen
    obtain ⟨y, ys, rfl, hy⟩ := exists_bytesOfS16_append hx
    obtain ⟨n, text, rfl⟩ := List.exists_cons_of_length_pos hy
    have hfull := length_append_replicate_sub 0x00#8 (readS_eq_none_iff.1 h).le
    exact ⟨_, _, by simpa using readS_of_length_eq (k := k) (x := x) (y := y) hfull⟩
  · obtain ⟨x, y, hxy⟩ :=
      exists_bytesOfS16_of_length_four (length_append_replicate_sub 0x00#8 (show bs.length ≤ 4 by omega))
    exact ⟨_ ++ [0x00#8], k x y [], by rw [← List.append_assoc, hxy, readS_of_length_eq rfl]⟩

/-- Every entry of the opcode map (R76) has a reader that can be completed. -/
theorem completable_of_mem_opcodeMap : ∀ entry ∈ opcodeMap, Completable entry.2 := by
  simp only [opcodeMap, List.forall_mem_cons, List.not_mem_nil, false_implies, implies_true, and_true]
  have hN : ∀ i, Completable (readN i) := nofun
  exact ⟨hN _, hN _, hN _, hN _, hN _, (readsBytes_readB _).completable, (readsBytes_readB _).completable,
    (readsBytes_readP _).completable, (readsBytes_readP _).completable, (readsBytes_readQ _).completable,
    (readsBytes_readQ _).completable, (readsBytes_readQ _).completable, (readsBytes_readT _).completable,
    (readsBytes_readT _).completable, (readsBytes_readG _).completable, completable_readS _⟩

/-- Where the decoder asks for more bytes, some bytes complete a command. -/
theorem exists_append_of_decode_incomplete {bs : List Byte} (h : decode bs = .incomplete) :
    ∃ (i : Instr) (more : List Byte), decode (bs ++ more) = .command i [] := by
  cases bs with
  | nil => exact ⟨.init, encode .init, rfl⟩
  | cons op bs =>
    obtain ⟨read, hlookup, hread⟩ := decode_cons_eq_incomplete_iff.1 h
    obtain ⟨_, _, hmap, -⟩ := List.lookup_eq_some_iff.1 hlookup
    obtain ⟨more, i, hi⟩ := completable_of_mem_opcodeMap (op, read) (by simp [hmap]) bs hread
    exact ⟨i, more, decode_cons_of_read hlookup hi⟩

/-- Settles O8: bytes that complete a command are its encoding, and there is at least one, for the decoder waited; a
proper beginning of a command is never decoded and never illegal. -/
theorem incompleteIsProperBeginning : Obligations.IncompleteIsProperBeginning := by
  intro bs
  constructor
  · intro h
    obtain ⟨i, more, hd⟩ := exists_append_of_decode_incomplete h
    have he := encode_append_of_decode hd
    rw [List.append_nil] at he
    refine ⟨i, more, wellFormed_of_decode hd, ?_, he⟩
    rintro rfl
    rw [List.append_nil, h] at hd
    cases hd
  · rintro ⟨i, more, hwf, hm, he⟩
    exact decode_incomplete_of_append hwf hm he.symm

end Sys2Proof
end

section
/-! A step takes the command at `cp` and no byte behind it (30_encoding.md section 2, R75, R255), and what the host
writes between steps (R70, R223). -/

namespace Sys2Proof.Machine

/-- Settles O10: the command at `cp` is decoded, and its effect advances `cp` past its own bytes. -/
theorem stepRunsDecodedCommand : Obligations.StepRunsDecodedCommand := by
  intro s i rest ha hi hwf hp
  obtain ⟨t, ht, e⟩ := exec_effect i s
  have hd : decode s.pending = .command i rest := by rw [hp, decode_encode_append rest hwf]
  exact ⟨step_command ha hi hd, t, ht, e.cp_eq, e.stream_eq, e.pending_eq hp⟩

/-- Settles O12: what is pending is a proper beginning of a command, on which the decoder waits. -/
theorem stepWaitsForBytes : Obligations.StepWaitsForBytes :=
  fun _ _ _ ha hi hwf hm hp => step_incomplete ha hi (decode_incomplete_of_append hwf hm hp)

/-- Settles O18: a halted block discards the byte; a running one has a longer stream and nothing else, and only a halted
block must stand at an illegal byte. -/
theorem hostWriteKeepsInvariant : Obligations.HostWriteKeepsInvariant := by
  intro s b hs
  unfold State.hostWrite
  split
  · exact hs
  · next hi =>
    rw [State.inv_iff] at hs ⊢
    obtain ⟨hadm, hwf, hbelow, hcp, hbring, -⟩ := hs
    exact ⟨hadm, hwf, hbelow, by simp; omega, hbring, by simp [haltedAtIllegalByte, hi]⟩

/-! No command reads or writes the command port's stream. -/

theorem State.busTxns_setStream (s : State) (bs : List Byte) (txns : List (List Byte)) :
    (s.setStream bs).busTxns txns = (s.busTxns txns).setStream bs := by
  induction txns generalizing s with
  | nil => rfl
  | cons txn txns ih => exact ih (s.busTxn txn)

theorem State.advance_setStream (s : State) (bs : List Byte) (n : Nat) :
    (s.setStream bs).advance n = (s.advance n).setStream bs := rfl

theorem State.flush_setStream (s : State) (bs : List Byte) : (s.setStream bs).flush = s.flush.setStream bs :=
  s.busTxns_setStream bs _

theorem State.configure_setStream (s : State) (bs : List Byte) :
    (s.setStream bs).configure = s.configure.setStream bs :=
  s.busTxns_setStream bs _

theorem State.bringUp_probe_setStream (s : State) (bs : List Byte) :
    (s.setStream bs).bringUp.probe = s.bringUp.probe.setStream bs := rfl

theorem State.initFail_setStream (s : State) (bs : List Byte) :
    (s.setStream bs).initFail = s.initFail.setStream bs := rfl

theorem State.initSucceed_setStream (s : State) (bs : List Byte) :
    (s.setStream bs).initSucceed = s.initSucceed.setStream bs := by
  rw [State.initSucceed, State.configure_setStream]
  exact congrArg (State.setInitResult · true .active) ((s.configure.setFb Memory.cleared).flush_setStream bs)

/-- A command does the same whatever the stream is, and leaves the stream it finds (R255). -/
theorem exec_setStream {i : Instr} {s t : State} (bs : List Byte) (h : exec i s = .next t) :
    exec i (s.setStream bs) = .next (t.setStream bs) := by
  cases i with
  | init =>
    cases ha : s.nextAck with
    | false =>
      rw [exec_init_failure s ha, Host.Outcome.next.injEq] at h
      rw [exec_init_failure (s.setStream bs) ha, State.bringUp_probe_setStream, State.initFail_setStream,
        State.advance_setStream, h]
    | true =>
      rw [exec_init_success s ha, Host.Outcome.next.injEq] at h
      rw [exec_init_success (s.setStream bs) ha, State.bringUp_probe_setStream, State.initSucceed_setStream,
        State.advance_setStream, h]
  | update =>
    rw [exec_update, Host.Outcome.next.injEq] at h
    rw [exec_update, State.flush_setStream, State.advance_setStream, h]
  | _ => cases h; rfl

/-- Settles O19: the command at `cp` is still the one decoded when bytes are written behind it, and it runs as before on
the longer stream. -/
theorem laterBytesDoNotMatter : Obligations.LaterBytesDoNotMatter := by
  intro s t i rest bs hi hd hstep
  obtain ⟨ha, -, -⟩ := step_cases hstep
  have he : exec i s = .next t := (step_command ha hi hd).symm.trans hstep
  have e := effect_of_exec he
  have hcp : s.cp ≤ s.stream.length := by
    by_contra hlt
    rw [State.pending, List.drop_eq_nil_of_le (by omega)] at hd
    cases hd
  rw [State.hostWrites_running bs hi, State.hostWrites_running bs (e.illegal_eq.trans hi), e.stream_eq]
  have hd' : decode (s.setStream (s.stream ++ bs)).pending = .command i (rest ++ bs) := by
    have hp : (s.setStream (s.stream ++ bs)).pending = s.pending ++ bs := List.drop_append_of_le_length hcp
    rw [hp, ← encode_append_of_decode hd, List.append_assoc, decode_encode_append _ (wellFormed_of_decode hd)]
  exact (step_command (s := s.setStream (s.stream ++ bs)) ha hi hd').trans (exec_setStream _ he)

end Sys2Proof.Machine
end

section
/-! A long text, split by the host (30_encoding.md section 4, R82, R83). -/

namespace Sys2Proof.Machine

/-- A text that starts right of every admitted framebuffer plots nothing, which is why the host may drop it (R83). -/
theorem plotAll_stringPlots_of_width_le {c : Config} {cx : Int} (hx : (c.width : Int) ≤ cx) (cy : Int)
    (text : List Byte) (m : Memory) : plotAll c (stringPlots c cx cy text) m = m := by
  refine plotAll_clipped ?_
  rintro ⟨px, py, v⟩ hp ⟨-, hlt, -⟩
  obtain ⟨⟨hle, -⟩, -⟩ := mem_stringPlots.1 hp
  simp only at hlt
  omega

/-- A piece whose start fits its `s16` operand is drawn from that start. -/
theorem exec_drawString_ofInt (s : State) {x : Int} (y : S16) (text : List Byte) (hlo : -32768 ≤ x)
    (hhi : x ≤ 32767) :
    ∃ t, exec (.drawString (BitVec.ofInt 16 x) y text) s = .next t ∧ t.cfg = s.cfg ∧
      t.fb = plotAll s.cfg (stringPlots s.cfg x (coord y) text) s.fb := by
  have hx : coord (BitVec.ofInt 16 x) = x := BitVec.toInt_ofInt_eq_self (by decide) (by omega) (by omega)
  exact ⟨_, rfl, rfl, by simp [hx]⟩

/-- The pieces of a text run to a state whose framebuffer is what the whole text draws, by induction on how many pieces
there may be: the first piece and the rest are two parts of the text's plots. -/
theorem execAll_splitString {fuel : Nat} {x : Int} {text : List Byte} {s : State} (y : S16)
    (hs : s.cfg.sizeAdmitted = true) (hx : -32768 ≤ x) (hf : text.length < maxText * fuel) :
    ∃ t, execAll (splitString y fuel x text) s = .next t ∧
      t.fb = plotAll s.cfg (stringPlots s.cfg x (coord y) text) s.fb := by
  induction fuel generalizing x text s with
  | zero => omega
  | succ fuel ih =>
    unfold splitString
    split_ifs with hbeyond hshort
    · obtain ⟨-, -, -, -, hwidth⟩ := (sizeAdmitted_iff _).1 hs
      exact ⟨s, rfl, (plotAll_stringPlots_of_width_le (by omega) _ _ _).symm⟩
    · obtain ⟨t, hexec, -, hfb⟩ := exec_drawString_ofInt s y text hx (by omega)
      exact ⟨t, execAll_cons [] hexec, hfb⟩
    · obtain ⟨u, hexec, hcfg, hu⟩ := exec_drawString_ofInt s y (text.take maxText) hx (by omega)
      have hrest : (text.drop maxText).length < maxText * fuel := by
        rw [Nat.mul_succ] at hf
        rw [List.length_drop]
        omega
      obtain ⟨t, ht, hfb⟩ := ih (s := u) (x := x + 6 * (maxText : Int)) (hcfg ▸ hs) (by omega) hrest
      refine ⟨t, (execAll_cons _ hexec).trans ht, ?_⟩
      have hlen : (text.take maxText).length = maxText := List.length_take_of_le (by omega)
      calc t.fb = plotAll s.cfg (stringPlots s.cfg (x + 6 * (maxText : Int)) (coord y) (text.drop maxText))
            (plotAll s.cfg (stringPlots s.cfg x (coord y) (text.take maxText)) s.fb) := by rw [hfb, hcfg, hu]
        _ = plotAll s.cfg (stringPlots s.cfg x (coord y) (text.take maxText ++ text.drop maxText)) s.fb := by
            rw [stringPlots_append, hlen, plotAll_append]
        _ = plotAll s.cfg (stringPlots s.cfg x (coord y) text) s.fb := by rw [List.take_append_drop]

theorem wellFormed_of_mem_splitString {y : S16} {fuel : Nat} {x : Int} {text : List Byte} :
    ∀ i ∈ splitString y fuel x text, i.wellFormed = true := by
  induction fuel generalizing x text with
  | zero => nofun
  | succ fuel ih =>
    unfold splitString
    split_ifs with hbeyond hshort
    · nofun
    · simpa [Instr.wellFormed, textFits, maxText] using hshort
    · refine List.forall_mem_cons.2 ⟨?_, ih⟩
      simp [Instr.wellFormed, textFits, maxText]

/-- Settles O45: there are pieces enough for the text, and each carries at most `maxText` bytes. -/
theorem splitStringDrawsTheSame : Obligations.SplitStringDrawsTheSame := by
  intro s x y text hs
  have hfuel : text.length < maxText * (text.length / maxText + 1) := Nat.lt_mul_div_succ _ (by decide)
  obtain ⟨t, ht, hfb⟩ := execAll_splitString y hs x.le_toInt hfuel
  exact ⟨t, ht, wellFormed_of_mem_splitString, hfb⟩

end Sys2Proof.Machine
end

section
/-! PlotPixel and the commands that set, clear and blank pixels (40_framebuffer.md, R100 to R106). -/

namespace Sys2Proof.Machine

/-! CLEAR. -/

/-- Settles O24: the framebuffer is replaced by the cleared one, `cp` moves past the one byte, and that is all. -/
theorem clearResult : Obligations.ClearResult :=
  ⟨rfl, fun _ => ⟨_, rfl, rfl, Memory.read_cleared⟩⟩

/-! PlotPixel, byte by byte. -/

/-- What a byte reads after one PlotPixel: its old value with the pixel's bit written if it holds the pixel (R100). -/
theorem read_plotPixel (c : Config) (x y : Int) (v : Bool) {m : Memory} (hm : m.wf = true) (i : Nat) :
    (plotPixel c x y v m).read i =
      if InFrame c x y ∧ i = pixelIndex c x.toNat y.toNat then setBit (m.read i) (pixelBit y.toNat) v
      else m.read i := by
  by_cases h : InFrame c x y ∧ i = pixelIndex c x.toNat y.toNat
  · obtain ⟨hf, rfl⟩ := h
    rw [if_pos ⟨hf, rfl⟩, plotPixel, if_pos hf, Memory.read_write_self hm]
  · rw [if_neg h]
    exact read_plotPixel_other v m fun hf hi => h ⟨hf, hi.symm⟩

/-- On one pixel the last PlotPixel wins: each byte has the pixel's bit written twice, or is left alone (R106). -/
theorem plotPixel_twice (c : Config) (x y : Int) (v v' : Bool) {m : Memory} (hm : m.wf = true) :
    plotPixel c x y v' (plotPixel c x y v m) = plotPixel c x y v' m := by
  have hm1 := wf_plotPixel c x y v hm
  refine Memory.eq_of_read (wf_plotPixel _ _ _ _ hm1) (wf_plotPixel _ _ _ _ hm) fun i => ?_
  rw [read_plotPixel _ _ _ _ hm1, read_plotPixel _ _ _ _ hm, read_plotPixel _ _ _ _ hm]
  split_ifs
  · exact setBit_twice _ (pixelBit_lt _) v v'
  · rfl

/-- PlotPixel calls on different pixels commute: a byte that holds both pixels holds them in different bits (R52,
R106). -/
theorem plotPixel_comm (c : Config) {x y x' y' : Int} (v v' : Bool) {m : Memory} (hm : m.wf = true)
    (hne : x ≠ x' ∨ y ≠ y') :
    plotPixel c x' y' v' (plotPixel c x y v m) = plotPixel c x y v (plotPixel c x' y' v' m) := by
  have hm1 := wf_plotPixel c x y v hm
  have hm2 := wf_plotPixel c x' y' v' hm
  refine Memory.eq_of_read (wf_plotPixel _ _ _ _ hm1) (wf_plotPixel _ _ _ _ hm2) fun i => ?_
  rw [read_plotPixel _ _ _ _ hm1, read_plotPixel _ _ _ _ hm, read_plotPixel _ _ _ _ hm2, read_plotPixel _ _ _ _ hm]
  split_ifs with h' h
  · obtain ⟨hf, hi⟩ := h
    obtain ⟨hf', hi'⟩ := h'
    refine setBit_comm _ (pixelBit_lt _) (pixelBit_lt _) v v' fun hbit => ?_
    obtain ⟨rfl, rfl⟩ := pixelIndex_inj hf hf' (hi.symm.trans hi') hbit
    simp at hne
  all_goals rfl

/-- Settles O23: a write is read back through the pixel accessor; the laws about two calls hold because canonical
framebuffers that read alike are equal. -/
theorem plotPixelLaws : Obligations.PlotPixelLaws := by
  intro c m x y hm
  have hread (hf : InFrame c x y) (v : Bool) : pixelAt c (plotPixel c x y v m) x y = v := by
    rw [pixelAt_plotPixel v hm hf, if_pos ⟨rfl, rfl⟩]
  have hclear (s : State) : ∃ t, exec .clear s = .next t ∧ ∀ i, t.fb.read i = 0x00#8 := by
    obtain ⟨t, ht, -, hzero⟩ := clearResult.2 s
    exact ⟨t, ht, hzero⟩
  exact ⟨hread, fun hf v => plotPixel_clipped v m hf, hclear, fun _ _ v v' => plotPixel_comm c v v' hm,
    fun v v' => plotPixel_twice c x y v v' hm, fun v => plotPixel_twice c x y v v hm⟩

/-! SET_PIXEL_OFF and SET_PIXEL_ON. -/

/-- One PlotPixel writes the pixel it names and no other, leaves the bytes that do not hold it alone, and is a no-op
outside the framebuffer (R100). -/
theorem plotPixel_writes_only_pixel (c : Config) (x y : Int) (v : Bool) {m : Memory} (hm : m.wf = true) :
    (∀ px py, InFrame c px py →
      pixelAt c (plotPixel c x y v m) px py = if px = x ∧ py = y then v else pixelAt c m px py) ∧
    (∀ i, (InFrame c x y → i ≠ pixelIndex c x.toNat y.toNat) → (plotPixel c x y v m).read i = m.read i) ∧
    (¬InFrame c x y → plotPixel c x y v m = m) := by
  refine ⟨fun px py hf => ?_, fun i hi => ?_, plotPixel_clipped v m⟩
  · rw [pixelAt_plotPixel v hm hf]
    simp only [eq_comm]
  · exact read_plotPixel_other v m fun hf => (hi hf).symm

/-- Settles O25: the command is one PlotPixel with the value 0. -/
theorem setPixelOffResult : Obligations.SetPixelOffResult :=
  fun s x y hm => ⟨rfl, _, rfl, rfl, plotPixel_writes_only_pixel s.cfg x.toInt y.toInt false hm⟩

/-- Settles O26: the command is one PlotPixel with the value 1. -/
theorem setPixelOnResult : Obligations.SetPixelOnResult :=
  fun s x y hm => ⟨rfl, _, rfl, rfl, plotPixel_writes_only_pixel s.cfg x.toInt y.toInt true hm⟩

end Sys2Proof.Machine
end

section
/-! What a command's PlotPixel calls name and turn on (41_rasterizer.md section 1, R122). -/

namespace Sys2Proof.Machine

/-- The pixels named by calls that all write the value 1. -/
theorem plotsPixel_iff_of_mem {ps : List Plot} {px py : Int} {P : Prop}
    (h : ∀ v, (⟨px, py, v⟩ : Plot) ∈ ps ↔ P ∧ v = true) : PlotsPixel ps px py ↔ P := by
  simp [PlotsPixel, h]

theorem plotsPixel_append {ps qs : List Plot} {px py : Int} :
    PlotsPixel (ps ++ qs) px py ↔ PlotsPixel ps px py ∨ PlotsPixel qs px py := by
  simp [PlotsPixel, exists_or]

theorem plotsPixel_hSpan {x y len px py : Int} :
    PlotsPixel (hSpan x y len) px py ↔ x ≤ px ∧ px < x + len ∧ py = y := by
  simp [PlotsPixel, mem_hSpan]

/-- Calls that name exactly the pixels of `S`, all with the value 1, turn on exactly these (R122). -/
theorem turnsOn_of_mem {c : Config} {ps : List Plot} {S : Int → Int → Prop} {m : Memory} (hm : m.wf = true)
    (h : ∀ px py v, (⟨px, py, v⟩ : Plot) ∈ ps ↔ S px py ∧ v = true) : TurnsOn c S m (plotAll c ps m) :=
  (turnsOn_plotAll hm fun p hp => ((h p.x p.y p.v).1 hp).2).congr fun x y => plotsPixel_iff_of_mem (h x y)

end Sys2Proof.Machine
end

section
/-! Lines (41_rasterizer.md section 2, R123 to R126). -/

namespace Sys2Proof.Machine

/-! The envelope. -/

/-- Every value of the parameter meets the envelope of R123, since a tie's other pixel does. -/
theorem lineRaster_envelope (r : LineRaster) (x0 y0 x1 y1 : Int) :
    InLineEnvelope x0 y0 x1 y1 (PlotsPixel (lineRaster r x0 y0 x1 y1)) := by
  obtain ⟨hflat, hsteep⟩ := lineDefault_envelope x0 y0 x1 y1
  exact ⟨fun h => (hflat h).tie (p := fun t => ⟨x0, y0, x1, y1, t⟩) (fun _ => rfl)
      fun _ _ => plotsPixel_lineRaster_flat h,
    fun h => (hsteep h).tie (p := fun t => ⟨x0, y0, x1, y1, t⟩) (fun _ => rfl)
      fun _ _ => plotsPixel_lineRaster_steep h⟩

/-- Settles O30: taking other pixels at ties keeps the envelope of the default line and the number of its pixels. -/
theorem lineEnvelope : Obligations.LineEnvelope := by
  intro r x0 y0 x1 y1
  refine ⟨lineRaster_envelope r x0 y0 x1 y1, ?_⟩
  rw [lineRaster_length, lineDefault_length]

/-! DRAW_LINE. -/

/-- Settles O29: every value of the parameter writes the value 1 only, and the default of the parameter is
`LineDefault`. -/
theorem drawLineResult : Obligations.DrawLineResult := by
  intro s x0 y0 x1 y1 hm
  have hon := turnsOn_plotAll (c := s.cfg) hm
    (lineRaster_one s.cfg.lineRaster x0.toInt y0.toInt x1.toInt y1.toInt)
  exact ⟨rfl, _, rfl, rfl, hon, fun hdef => hon.congr fun _ _ => by rw [hdef, lineRaster_ofDefault]⟩

/-! Which values the parameter has. -/

/-- Any finite set of ties is the set of those where some value of the parameter takes the other pixel. -/
theorem exists_takesOther_iff {T : Set LineTie} (hT : T.Finite) :
    ∃ r : LineRaster, ∀ p, takesOther r p = true ↔ p ∈ T :=
  ⟨⟨false, hT.toFinset.toList⟩, fun p => by simp [takesOther]⟩

/-- The pixel set `D` has a pixel at the major coordinate `t` that `S` lacks. -/
def DiffersAt (D S : Int → Int → Prop) (t : Int) : Prop := ∃ m, D t m ∧ ¬S t m

/-- A pixel set of the envelope comes from another one by taking the other pixel wherever the two differ: each has one
pixel at a major coordinate, and two that differ are on the two sides of a tie (R123). -/
theorem MajorEnvelope.eq_tie {r : LineRaster} {x0 y0 x1 y1 : Int} {D S : Int → Int → Prop} {p : Int → LineTie}
    (hD : MajorEnvelope x0 y0 x1 y1 D) (hS : MajorEnvelope x0 y0 x1 y1 S) (hp : ∀ t, (p t).t = t)
    (hr : ∀ t, min x0 x1 ≤ t → t ≤ max x0 x1 → (takesOther r (p t) = true ↔ DiffersAt D S t)) (t m : Int) :
    (∃ m', D t m' ∧ m = tieMinor r (p t) x0 y0 x1 y1 m') ↔ S t m := by
  obtain ⟨hDone, hDnear, -⟩ := hD
  obtain ⟨hSone, hSnear, -⟩ := hS
  -- The pixels `md` of `D` and `ms` of `S` at one major coordinate.
  have key {md ms : Int} (hmd : D t md) (hms : S t ms) : tieMinor r (p t) x0 y0 x1 y1 md = ms := by
    obtain ⟨hlo, hhi, hDd, hD0⟩ := hDnear t md hmd
    obtain ⟨-, -, hSd, hS0⟩ := hSnear t ms hms
    by_cases heq : ms = md
    · subst heq
      have hsame : ¬DiffersAt D S t := by
        rintro ⟨m', hm', hn⟩
        exact hn ((hDone t hlo hhi).unique hm' hmd ▸ hms)
      rw [tieMinor, if_neg ((hr t hlo hhi).not.2 hsame)]
    · have hdiff : DiffersAt D S t := ⟨md, hmd, fun h => heq ((hSone t hlo hhi).unique hms h)⟩
      have hd : x1 - x0 ≠ 0 := fun h0 => heq ((hS0 h0).trans (hD0 h0).symm)
      have hother := eq_or_eq_otherMinor hd (hDd hd) (hSd hd)
      rw [tieMinor, if_pos ((hr t hlo hhi).2 hdiff), hp]
      omega
  constructor
  · rintro ⟨md, hmd, rfl⟩
    obtain ⟨hlo, hhi, -⟩ := hDnear t md hmd
    obtain ⟨ms, hms, -⟩ := hSone t hlo hhi
    rwa [key hmd hms]
  · intro hms
    obtain ⟨hlo, hhi, -⟩ := hSnear t m hms
    obtain ⟨md, hmd, -⟩ := hDone t hlo hhi
    exact ⟨md, hmd, (key hmd hms).symm⟩

/-- The pixels `S` of a line as pairs of a major and a minor coordinate. -/
def majorPixels (x0 y0 x1 y1 : Int) (S : Int → Int → Prop) : Int → Int → Prop :=
  if |y1 - y0| > |x1 - x0| then fun t m => S m t else S

/-- The parameter that takes the other pixel of a line wherever the default differs from `S` plots `S` (R123, R124). -/
theorem plotsPixel_lineRaster_iff {r : LineRaster} {x0 y0 x1 y1 : Int} {S : Int → Int → Prop}
    (hS : InLineEnvelope x0 y0 x1 y1 S)
    (hr : ∀ t, min x0 x1 ≤ t ∧ t ≤ max x0 x1 ∨ min y0 y1 ≤ t ∧ t ≤ max y0 y1 →
      (takesOther r ⟨x0, y0, x1, y1, t⟩ = true ↔
        DiffersAt (majorPixels x0 y0 x1 y1 (PlotsPixel (lineDefault x0 y0 x1 y1)))
          (majorPixels x0 y0 x1 y1 S) t)) (px py : Int) :
    PlotsPixel (lineRaster r x0 y0 x1 y1) px py ↔ S px py := by
  obtain ⟨hflatD, hsteepD⟩ := lineDefault_envelope x0 y0 x1 y1
  obtain ⟨hflatS, hsteepS⟩ := hS
  by_cases h : |y1 - y0| > |x1 - x0|
  · simp only [majorPixels, if_pos h] at hr
    rw [plotsPixel_lineRaster_steep h]
    exact (hsteepD h).eq_tie (p := fun t => ⟨x0, y0, x1, y1, t⟩) (hsteepS h) (fun _ => rfl)
      (fun t hlo hhi => hr t (.inr ⟨hlo, hhi⟩)) py px
  · simp only [majorPixels, if_neg h] at hr
    rw [plotsPixel_lineRaster_flat (not_lt.1 h)]
    exact (hflatD (not_lt.1 h)).eq_tie (p := fun t => ⟨x0, y0, x1, y1, t⟩) (hflatS (not_lt.1 h)) (fun _ => rfl)
      (fun t hlo hhi => hr t (.inl ⟨hlo, hhi⟩)) px py

/-- The ties with `s16` coordinates at which a property of these coordinates holds. -/
def tiesWhere (P : S16 → S16 → S16 → S16 → S16 → Prop) : Set LineTie :=
  {p | ∃ x0 y0 x1 y1 t : S16, p = ⟨x0.toInt, y0.toInt, x1.toInt, y1.toInt, t.toInt⟩ ∧ P x0 y0 x1 y1 t}

theorem mem_tiesWhere {P : S16 → S16 → S16 → S16 → S16 → Prop} {x0 y0 x1 y1 t : S16} :
    (⟨x0.toInt, y0.toInt, x1.toInt, y1.toInt, t.toInt⟩ : LineTie) ∈ tiesWhere P ↔ P x0 y0 x1 y1 t := by
  simp [tiesWhere, BitVec.toInt_inj]

theorem tiesWhere_finite (P : S16 → S16 → S16 → S16 → S16 → Prop) : (tiesWhere P).Finite := by
  have : Finite S16 := Finite.of_injective BitVec.toFin BitVec.toFin_injective
  refine (Set.finite_range fun q : S16 × S16 × S16 × S16 × S16 =>
    (⟨q.1.toInt, q.2.1.toInt, q.2.2.1.toInt, q.2.2.2.1.toInt, q.2.2.2.2.toInt⟩ : LineTie)).subset ?_
  rintro p ⟨x0, y0, x1, y1, t, rfl, -⟩
  exact ⟨(x0, y0, x1, y1, t), rfl⟩

/-- A coordinate between two `s16` coordinates is one (R72). -/
theorem exists_s16_between {a b : S16} {t : Int} (hlo : min a.toInt b.toInt ≤ t) (hhi : t ≤ max a.toInt b.toInt) :
    ∃ v : S16, v.toInt = t := by
  have halo := a.le_toInt
  have hahi := a.toInt_lt
  have hblo := b.le_toInt
  have hbhi := b.toInt_lt
  exact ⟨BitVec.ofInt 16 t, BitVec.toInt_ofInt_eq_self (by decide) (by omega) (by omega)⟩

/-- Settles O31: the lines with `s16` ends have finitely many places, and the parameter takes the other pixel at those
where the default differs from the given sets. -/
theorem lineRasterIsOpen : Obligations.LineRasterIsOpen := by
  intro S hS
  obtain ⟨r, hr⟩ := exists_takesOther_iff (tiesWhere_finite fun x0 y0 x1 y1 t =>
    DiffersAt
      (majorPixels x0.toInt y0.toInt x1.toInt y1.toInt
        (PlotsPixel (lineDefault x0.toInt y0.toInt x1.toInt y1.toInt)))
      (majorPixels x0.toInt y0.toInt x1.toInt y1.toInt (S x0 y0 x1 y1)) t.toInt)
  refine ⟨r, fun x0 y0 x1 y1 => plotsPixel_lineRaster_iff (hS x0 y0 x1 y1) fun t ht => ?_⟩
  obtain ⟨v, rfl⟩ : ∃ v : S16, v.toInt = t :=
    ht.elim (fun h => exists_s16_between h.1 h.2) fun h => exists_s16_between h.1 h.2
  exact (hr _).trans mem_tiesWhere

/-! The default line. -/

/-- The ends of a line are put in rising order, so their exchange is undone (R124). -/
theorem lineMajor_swap (steep : Bool) {x0 y0 x1 y1 : Int} (h : x0 = x1 → y0 = y1) :
    lineMajor steep x1 y1 x0 y0 = lineMajor steep x0 y0 x1 y1 := by
  unfold lineMajor
  rcases lt_trichotomy x0 x1 with hlt | heq | hgt
  · rw [if_pos hlt, if_neg (by omega)]
  · rw [heq, h heq]
  · rw [if_neg (by omega), if_pos hgt]

/-- A line whose major extent is 0 is a point. -/
theorem minor_eq_of_major_eq {a0 a1 b0 b1 : Int} (h : |b1 - b0| ≤ |a1 - a0|) (ha : a0 = a1) : b0 = b1 := by
  rw [ha, sub_self, abs_zero] at h
  exact (sub_eq_zero.1 (abs_nonpos_iff.1 h)).symm

/-- The default line is the same list of calls with its ends exchanged (R126). -/
theorem lineDefault_swap (x0 y0 x1 y1 : Int) : lineDefault x1 y1 x0 y0 = lineDefault x0 y0 x1 y1 := by
  rw [lineDefault, lineDefault, abs_sub_comm y0, abs_sub_comm x0]
  split_ifs with h
  · exact lineMajor_swap true (minor_eq_of_major_eq h.le)
  · exact lineMajor_swap false (minor_eq_of_major_eq (not_lt.1 h))

/-- The source's first example, a diagonal. -/
theorem plotsPixel_lineDefault_diagonal (px py : Int) :
    PlotsPixel (lineDefault 0 0 5 5) px py ↔ 0 ≤ px ∧ px ≤ 5 ∧ py = px := by
  have hpixels : lineDefault 0 0 5 5 = (List.range 6).map fun (i : Nat) => ⟨(i : Int), (i : Int), true⟩ := by decide
  simp only [PlotsPixel, hpixels, List.mem_map, List.mem_range, Plot.mk.injEq]
  constructor
  · rintro ⟨v, i, hi, rfl, rfl, -⟩
    omega
  · rintro ⟨hlo, hhi, rfl⟩
    exact ⟨true, py.toNat, by omega, by omega, by omega, rfl⟩

/-- The source's second example, a horizontal run. -/
theorem plotsPixel_lineDefault_horizontal (px py : Int) :
    PlotsPixel (lineDefault 0 0 5 0) px py ↔ 0 ≤ px ∧ px ≤ 5 ∧ py = 0 := by
  have hpixels : lineDefault 0 0 5 0 = hSpan 0 0 6 := by decide
  rw [hpixels, plotsPixel_hSpan]
  omega

/-- A line with a tie at `px = 2`, where the default keeps the row of the left end (R124). -/
theorem plotsPixel_lineDefault_tie (px py : Int) :
    PlotsPixel (lineDefault 0 0 4 1) px py ↔
      (0 ≤ px ∧ px ≤ 2 ∧ py = 0) ∨ (3 ≤ px ∧ px ≤ 4 ∧ py = 1) := by
  have hpixels : lineDefault 0 0 4 1 = hSpan 0 0 3 ++ hSpan 3 1 2 := by decide
  rw [hpixels, plotsPixel_append, plotsPixel_hSpan, plotsPixel_hSpan]
  omega

/-- Settles O32: exchanging the ends leaves the calls the same, and the three lines are computed. -/
theorem lineSymmetric : Obligations.LineSymmetric :=
  ⟨fun x0 y0 x1 y1 px py => by rw [lineDefault_swap], plotsPixel_lineDefault_diagonal,
    plotsPixel_lineDefault_horizontal, plotsPixel_lineDefault_tie⟩

end Sys2Proof.Machine
end

section
/-! Rectangles (41_rasterizer.md section 3, R127 to R131). -/

namespace Sys2Proof.Machine

/-- The outline is the boundary of the rectangle, and empty when an extent is not positive (R127, R128). -/
theorem mem_rectOutline {x y w h px py : Int} {v : Bool} :
    (⟨px, py, v⟩ : Plot) ∈ rectOutline x y w h ↔
      (x ≤ px ∧ px < x + w ∧ y ≤ py ∧ py < y + h ∧
        (px = x ∨ px = x + w - 1 ∨ py = y ∨ py = y + h - 1)) ∧ v = true := by
  unfold rectOutline
  split_ifs with hpos
  · simp only [List.mem_append, mem_hSpan, mem_vSpan]
    cases v with
    | false => simp
    | true =>
      simp only [and_true]
      omega
  · simp only [List.not_mem_nil, false_iff]
    omega

/-- The fill is the solid rectangle, and empty when an extent is not positive (R128, R130). -/
theorem mem_rectFill {x y w h px py : Int} {v : Bool} :
    (⟨px, py, v⟩ : Plot) ∈ rectFill x y w h ↔
      (x ≤ px ∧ px < x + w ∧ y ≤ py ∧ py < y + h) ∧ v = true := by
  simp only [rectFill, List.mem_flatMap, List.mem_range, mem_hSpan]
  constructor
  · rintro ⟨j, hj, hlo, hhi, rfl, hv⟩
    exact ⟨by omega, hv⟩
  · rintro ⟨⟨hlo, hhi, htop, hbot⟩, hv⟩
    exact ⟨(py - y).toNat, by omega, hlo, hhi, by omega, hv⟩

theorem rectOutline_eq_nil {x y w h : Int} (hwh : w ≤ 0 ∨ h ≤ 0) : rectOutline x y w h = [] :=
  if_neg (by omega)

theorem rectFill_eq_nil {x y w h : Int} (hwh : w ≤ 0 ∨ h ≤ 0) : rectFill x y w h = [] := by
  refine List.eq_nil_iff_forall_not_mem.2 fun p hp => ?_
  obtain ⟨hin, -⟩ := mem_rectFill.1 hp
  omega

/-- Settles O33: the four edges are the boundary, and there are none when an extent is not positive. -/
theorem drawRectResult : Obligations.DrawRectResult := by
  intro s x y w h hm
  refine ⟨rfl, _, rfl, rfl, turnsOn_of_mem hm fun _ _ _ => mem_rectOutline, fun hwh => ?_⟩
  exact congrArg (plotAll s.cfg · s.fb) (rectOutline_eq_nil hwh)

/-- Settles O34: the rows are the solid rectangle, and there are none when an extent is not positive. -/
theorem fillRectResult : Obligations.FillRectResult := by
  intro s x y w h hm
  refine ⟨rfl, _, rfl, rfl, turnsOn_of_mem hm fun _ _ _ => mem_rectFill, fun hwh => ?_⟩
  exact congrArg (plotAll s.cfg · s.fb) (rectFill_eq_nil hwh)

/-- Settles O35: the boundary is part of the rectangle, and has no interior left to miss when an extent is at most
2. -/
theorem outlineWithinFill : Obligations.OutlineWithinFill := by
  intro x y w h px py
  rw [plotsPixel_iff_of_mem fun _ => mem_rectOutline, plotsPixel_iff_of_mem fun _ => mem_rectFill]
  constructor
  · rintro ⟨hl, hr, ht, hb, -⟩
    exact ⟨hl, hr, ht, hb⟩
  · rintro hwh ⟨hl, hr, ht, hb⟩
    exact ⟨hl, hr, ht, hb, by omega⟩

end Sys2Proof.Machine
end

section
/-! Circles (41_rasterizer.md section 4, R140 to R146). -/

namespace Sys2Proof.Machine

/-! The loop. -/

theorem circleSteps_eq_nil {r : Int} (hr : r ≤ 0) : circleSteps r = [] := by
  rw [circleSteps, Int.toNat_of_nonpos hr, circleLoop]

/-- The states after the steps are those of a circle with a positive radius. -/
theorem within_of_mem_circleSteps {r : Int} {c : CircleState} (hc : c ∈ circleSteps r) : 0 < r ∧ c.Within r := by
  have hr : 0 < r := by
    by_contra hn
    simp [circleSteps_eq_nil (not_lt.1 hn)] at hc
  exact ⟨hr, within_circleLoop _ (within_circleInit hr) c hc⟩

@[simp] theorem circleStep_ddFx (c : CircleState) : (circleStep c).ddFx = c.ddFx + 2 := by
  simp only [circleStep, circleRight, circleLower]
  split_ifs <;> rfl

@[simp] theorem circleStep_ddFy (c : CircleState) :
    (circleStep c).ddFy = if c.f ≥ 0 then c.ddFy + 2 else c.ddFy := by
  simp only [circleStep, circleRight, circleLower]
  split_ifs <;> rfl

@[simp] theorem circleStep_f (c : CircleState) :
    (circleStep c).f = (if c.f ≥ 0 then c.f + (c.ddFy + 2) else c.f) + (c.ddFx + 2) := by
  simp only [circleStep, circleRight, circleLower]
  split_ifs <;> rfl

/-- Settles O36: each state is one step from the one before, and `r` steps of fuel are enough for the loop to run to
its end. -/
theorem circleLoopFollowsRule : Obligations.CircleLoopFollowsRule := by
  refine fun r => ⟨circleSteps_eq_nil, fun k d hd => ?_, fun hr => ?_⟩
  · obtain ⟨c, hbefore, hlt, rfl⟩ := circleLoop_getElem hd
    exact ⟨c, hbefore, hlt, circleStep_px c, circleStep_ddFx c, circleStep_py c, circleStep_ddFy c, circleStep_f c⟩
  · exact circleLoop_getLast (within_circleInit hr) (by simp only [circleInit]; omega) hr

/-- Settles O37: the invariant of the loop bounds every field by the radius, and with a radius that is not positive
there is only the first state. -/
theorem circleArithmeticBound : Obligations.CircleArithmeticBound := by
  intro r c hc
  have hrlo := r.le_toInt
  have hrhi := r.toInt_lt
  have bounds : (|c.f| ≤ 65536 ∧ |c.ddFx| ≤ 65536 ∧ |c.ddFy| ≤ 65536) ∧ |c.px| ≤ 32768 ∧ |c.py| ≤ 32768 := by
    simp only [abs_le]
    rcases hc with rfl | hc
    · simp only [circleInit]
      omega
    · obtain ⟨-, hw⟩ := within_of_mem_circleSteps hc
      simp only [CircleState.Within] at hw
      omega
  obtain ⟨⟨hf, hdx, hdy⟩, hpx, hpy⟩ := bounds
  refine ⟨hf, hdx, hdy, fun x => ?_⟩
  have hxlo := x.le_toInt
  have hxhi := x.toInt_lt
  simp only [abs_le] at hpx hpy ⊢
  omega

/-! DRAW_CIRCLE and FILL_CIRCLE. -/

/-- R143. -/
theorem mem_circleOutline {x y r px py : Int} {v : Bool} :
    (⟨px, py, v⟩ : Plot) ∈ circleOutline x y r ↔
      ((px = x ∧ (py = y + r ∨ py = y - r)) ∨ (py = y ∧ (px = x + r ∨ px = x - r)) ∨
        ∃ c ∈ circleSteps r,
          ((px = x + c.px ∨ px = x - c.px) ∧ (py = y + c.py ∨ py = y - c.py)) ∨
          ((px = x + c.py ∨ px = x - c.py) ∧ (py = y + c.px ∨ py = y - c.px))) ∧ v = true := by
  simp only [circleOutline, List.mem_append, List.mem_flatMap, mem_circleCardinals, mem_circleOctants]
  cases v <;> simp [or_assoc]

/-- R144. -/
theorem mem_circleFill {x y r px py : Int} {v : Bool} :
    (⟨px, py, v⟩ : Plot) ∈ circleFill x y r ↔
      ((px = x ∧ y - r ≤ py ∧ py ≤ y + r) ∨
        ∃ c ∈ circleSteps r,
          ((px = x + c.px ∨ px = x - c.px) ∧ y - c.py ≤ py ∧ py ≤ y + c.py) ∨
          ((px = x + c.py ∨ px = x - c.py) ∧ y - c.px ≤ py ∧ py ≤ y + c.px)) ∧ v = true := by
  have hdiameter : py < y - r + (2 * r + 1) ↔ py ≤ y + r := by omega
  simp only [circleFill, List.mem_append, List.mem_flatMap, mem_vSpan, mem_circleChords, hdiameter]
  cases v <;> simp

/-- Settles O38: the calls are the cardinal points and the octant points, all with the value 1. -/
theorem drawCircleResult : Obligations.DrawCircleResult :=
  fun _ _ _ _ hm => ⟨rfl, _, rfl, rfl, turnsOn_of_mem hm fun _ _ _ => mem_circleOutline⟩

/-- Settles O39: the calls are the diameter and the chords, all with the value 1. -/
theorem fillCircleResult : Obligations.FillCircleResult :=
  fun _ _ _ _ hm => ⟨rfl, _, rfl, rfl, turnsOn_of_mem hm fun _ _ _ => mem_circleFill⟩

/-! The filled circle and its outline (R145). -/

/-- Each column of the filled circle is symmetric about the centre's row and has no gaps. -/
theorem plotsPixel_circleFill_of_le {x y r px py py' : Int} (h : PlotsPixel (circleFill x y r) px py)
    (hle : |py' - y| ≤ |py - y|) : PlotsPixel (circleFill x y r) px py' := by
  have span {k : Int} (hin : y - k ≤ py ∧ py ≤ y + k) : y - k ≤ py' ∧ py' ≤ y + k := by
    have hk : |py' - y| ≤ k := hle.trans (abs_le.2 (by omega))
    rw [abs_le] at hk
    omega
  rw [plotsPixel_iff_of_mem fun _ => mem_circleFill] at h ⊢
  rcases h with ⟨hx, hy⟩ | ⟨c, hc, ⟨hx, hy⟩ | ⟨hx, hy⟩⟩
  · exact .inl ⟨hx, span hy⟩
  · exact .inr ⟨c, hc, .inl ⟨hx, span hy⟩⟩
  · exact .inr ⟨c, hc, .inr ⟨hx, span hy⟩⟩

/-- Each pixel of the filled circle is between two pixels of the outline in its column: the ends of its chord. -/
theorem plotsPixel_circleFill_ends {x y r px py : Int} (h : PlotsPixel (circleFill x y r) px py) :
    ∃ top bottom : Int, PlotsPixel (circleOutline x y r) px top ∧ PlotsPixel (circleOutline x y r) px bottom ∧
      top ≤ py ∧ py ≤ bottom := by
  simp only [plotsPixel_iff_of_mem fun _ => mem_circleOutline]
  rw [plotsPixel_iff_of_mem fun _ => mem_circleFill] at h
  rcases h with ⟨hx, hy⟩ | ⟨c, hc, ⟨hx, hy⟩ | ⟨hx, hy⟩⟩
  · exact ⟨y - r, y + r, .inl ⟨hx, .inr rfl⟩, .inl ⟨hx, .inl rfl⟩, hy⟩
  · exact ⟨y - c.py, y + c.py, .inr (.inr ⟨c, hc, .inl ⟨hx, .inr rfl⟩⟩),
      .inr (.inr ⟨c, hc, .inl ⟨hx, .inl rfl⟩⟩), hy⟩
  · exact ⟨y - c.px, y + c.px, .inr (.inr ⟨c, hc, .inr ⟨hx, .inr rfl⟩⟩),
      .inr (.inr ⟨c, hc, .inr ⟨hx, .inl rfl⟩⟩), hy⟩

/-- The first step keeps the radius as one of its two coordinates: `py` for `r >= 2`, `px` for `r = 1`. -/
theorem exists_mem_circleSteps_radius {r : Int} (hr : 0 < r) : ∃ c ∈ circleSteps r, c.px = r ∨ c.py = r := by
  obtain ⟨n, hn⟩ : ∃ n, r.toNat = n + 1 := ⟨r.toNat - 1, by omega⟩
  refine ⟨circleStep (circleInit r), ?_, ?_⟩
  · rw [circleSteps, hn, circleLoop, if_pos (show (circleInit r).px < (circleInit r).py from hr)]
    exact List.mem_cons_self
  · rw [circleStep_px, circleStep_py]
    simp only [circleInit]
    split_ifs <;> omega

/-- Each pixel of the outline is one of the filled circle: the left and right cardinal points lie on a chord of the
first step. -/
theorem plotsPixel_circleFill_of_outline {x y r px py : Int} (hr : 0 ≤ r)
    (h : PlotsPixel (circleOutline x y r) px py) : PlotsPixel (circleFill x y r) px py := by
  rw [plotsPixel_iff_of_mem fun _ => mem_circleOutline] at h
  rw [plotsPixel_iff_of_mem fun _ => mem_circleFill]
  rcases h with ⟨hx, hy⟩ | ⟨hy, hx⟩ | ⟨c, hc, h⟩
  · exact .inl ⟨hx, by omega⟩
  · rcases hr.eq_or_lt with rfl | hpos
    · exact .inl (by omega)
    · obtain ⟨c, hc, hradius⟩ := exists_mem_circleSteps_radius hpos
      obtain ⟨-, hpx, -, hpy, -⟩ := within_of_mem_circleSteps hc
      exact .inr ⟨c, hc, by omega⟩
  · obtain ⟨-, hpx, -, hpy, -⟩ := within_of_mem_circleSteps hc
    exact .inr ⟨c, hc, by omega⟩

/-- Settles O40: the outline lies in the filled circle, whose columns have no gaps, and each chord ends on the
outline. -/
theorem diskContainsOutline : Obligations.DiskContainsOutline := by
  refine fun x y r px py hr => ⟨plotsPixel_circleFill_of_outline hr, plotsPixel_circleFill_ends, ?_⟩
  rintro ⟨top, bottom, htop, hbottom, hle, hge⟩
  rcases le_total py y with hy | hy
  · refine plotsPixel_circleFill_of_le (plotsPixel_circleFill_of_outline hr htop) ?_
    rw [abs_of_nonpos (by omega), abs_of_nonpos (by omega)]
    omega
  · refine plotsPixel_circleFill_of_le (plotsPixel_circleFill_of_outline hr hbottom) ?_
    rw [abs_of_nonneg (by omega), abs_of_nonneg (by omega)]
    omega

end Sys2Proof.Machine
end

section
/-! The font: DRAW_CHAR and DRAW_STRING (42_font.md, R160 to R167). -/

namespace Sys2Proof.Machine

theorem exec_drawChar (x y : S16) (c : Byte) (s : State) :
    exec (.drawChar x y c) s = .next ((s.plot (glyphPlots s.cfg (coord x) (coord y) c)).advance lenG) := rfl

theorem exec_drawString (x y : S16) (text : List Byte) (s : State) :
    exec (.drawString x y text) s =
      .next ((s.plot (stringPlots s.cfg (coord x) (coord y) text)).advance (lenS (textLength text))) := rfl

/-! What the two commands draw. -/

/-- Settles O41: the calls name the cells of the glyph, each with its bit. -/
theorem drawCharResult : Obligations.DrawCharResult := by
  intro s x y c hm
  obtain ⟨hpixels, hbytes⟩ := pixelAt_plotAll_cells hm _ _ fun _ _ _ => mem_glyphPlots (c := s.cfg) (k := c)
  refine ⟨rfl, _, exec_drawChar x y c s, rfl, hpixels, fun i hi => hbytes i fun px py hf hcell => ?_⟩
  obtain ⟨hleft, hright, htop, hbottom⟩ := hcell
  exact hi px py hf hleft hright htop hbottom

/-- Settles O43: the calls name the cells of the text's glyphs, each with its bit, and none in a spacing column. -/
theorem drawStringResult : Obligations.DrawStringResult := by
  intro s x y text hm
  obtain ⟨hpixels, hbytes⟩ := pixelAt_plotAll_cells hm _ _ fun _ _ _ => mem_stringPlots (c := s.cfg) (text := text)
  refine ⟨rfl, _, exec_drawString x y text s, rfl, hpixels, fun i hi => hbytes i fun px py hf hcell => ?_⟩
  obtain ⟨hleft, hcolumn, hright, htop, hbottom⟩ := hcell
  exact hi px py hf hleft hcolumn hright htop hbottom

/-! The glyph of a code (R160 to R162). -/

theorem glyphCode_of_printable {k : Byte} (h : 32 ≤ k.toNat ∧ k.toNat ≤ 126) : glyphCode k = k.toNat := if_pos h

/-- The space keeps its code, and every code R162 replaces gets that one. -/
theorem glyphCode_eq_space {k : Byte} (h : ¬(33 ≤ k.toNat ∧ k.toNat ≤ 126)) : glyphCode k = 32 := by
  unfold glyphCode
  split_ifs <;> omega

/-- R161. -/
theorem glyphAt_space (c : Config) : c.glyphAt 32 = spaceGlyph := if_pos rfl

/-- R160: the table holds the glyphs of the codes 33 to 126. -/
theorem glyphAt_eq_getElem (c : Config) {n : Nat} (hlo : 33 ≤ n) (hhi : n ≤ 126) :
    c.glyphAt n = c.glyphs[n - 33]'(by omega) := by
  rw [Config.glyphAt, if_neg (by omega), List.getD_eq_getElem?_getD,
    List.getElem?_eq_getElem (by simp only [Vector.length_toList]; omega)]
  simp

/-- R161. -/
theorem glyphFor_space (c : Config) : c.glyphFor 0x20#8 = spaceGlyph := glyphAt_space c

/-- R162: a code without an entry in the table has the glyph of the space. -/
theorem glyphFor_eq_space (c : Config) {k : Byte} (h : ¬(33 ≤ k.toNat ∧ k.toNat ≤ 126)) :
    c.glyphFor k = c.glyphFor 0x20#8 := by
  rw [glyphFor_space, Config.glyphFor, glyphCode_eq_space h, glyphAt_space]

/-- R161: no bit of the space is 1. -/
theorem glyphBit_spaceGlyph (i j : Nat) : glyphBit spaceGlyph i j = false := by
  by_cases hi : i < 5
  · rw [glyphBit_eq _ _ _ hi]
    simp [spaceGlyph]
  · have hend : spaceGlyph.toList.length ≤ i := not_lt.1 hi
    rw [glyphBit, List.getD_eq_default _ _ hend, BitVec.getLsbD_zero]

/-- A code enters the calls of a glyph through its glyph alone. -/
theorem glyphPlots_congr {c : Config} {k k' : Byte} (h : c.glyphFor k = c.glyphFor k') (x y : Int) :
    glyphPlots c x y k = glyphPlots c x y k' := by
  simp only [glyphPlots, h]

/-- Replacing each character by one with the same glyph leaves the calls of a text the same. -/
theorem stringPlots_map {c : Config} {f : Byte → Byte} (h : ∀ k, c.glyphFor (f k) = c.glyphFor k) (cx cy : Int)
    (text : List Byte) : stringPlots c cx cy (text.map f) = stringPlots c cx cy text := by
  induction text generalizing cx with
  | nil => rfl
  | cons k ks ih => rw [List.map_cons, stringPlots, stringPlots, glyphPlots_congr (h k), ih]

/-- Settles O42: the glyph of a code is found through `glyphCode`, and the calls of a character depend on its glyph
alone. -/
theorem codesAreSubstituted : Obligations.CodesAreSubstituted := by
  refine ⟨fun g i j hi _ => glyphBit_eq g i j hi, fun c k => ⟨fun h => ?_, fun h => ?_⟩,
    fun s x y c text => ⟨fun h => ?_, ?_⟩⟩
  · rw [Config.glyphFor, glyphCode_of_printable (by omega)]
    exact glyphAt_eq_getElem c h.1 h.2
  · rw [glyphFor_eq_space c h, glyphFor_space]
    exact ⟨rfl, glyphBit_spaceGlyph⟩
  · rw [exec_drawChar, exec_drawChar, glyphPlots_congr (glyphFor_eq_space s.cfg (by omega))]
  · rw [exec_drawString, exec_drawString, textLength, textLength, List.length_map, stringPlots_map]
    intro k
    split_ifs with h
    · rfl
    · exact (glyphFor_eq_space s.cfg (by omega)).symm

/-! A text as its characters (R167). -/

/-- Two drawings in a row are one drawing of both lists of calls. -/
theorem State.plot_advance_append (s : State) (ps qs : List Plot) (m n : Nat) :
    (((s.plot ps).advance m).plot qs).advance n = (s.plot (ps ++ qs)).advance (m + n) := by
  ext1 <;> simp [plotAll_append, Nat.add_assoc]

/-- Where every start column fits `s16`, the DRAW_CHARs of a text make the calls of the text, by induction on the
text. -/
theorem execAll_drawChars {x : Int} (y : S16) {text : List Byte} {s : State} (hlo : -32768 ≤ x)
    (hhi : x + 6 * ((text.length : Int) - 1) ≤ 32767) :
    execAll (text.mapIdx fun k c => .drawChar (BitVec.ofInt 16 (x + 6 * (k : Int))) y c) s =
      .next ((s.plot (stringPlots s.cfg x (coord y) text)).advance (lenG * text.length)) := by
  induction text generalizing x s with
  | nil => rfl
  | cons k ks ih =>
    rw [List.length_cons] at hhi
    have hx : coord (BitVec.ofInt 16 x) = x := BitVec.toInt_ofInt_eq_self (by decide) (by omega) (by omega)
    have hcursor (i : Nat) : x + 6 * ((i + 1 : Nat) : Int) = x + cursorAdvance + 6 * (i : Int) := by
      rw [cursorAdvance]
      omega
    simp only [List.mapIdx_cons, hcursor, Nat.cast_zero, mul_zero, add_zero]
    rw [execAll_cons _ (exec_drawChar _ y k s), hx, ih (by rw [cursorAdvance]; omega) (by rw [cursorAdvance]; omega),
      State.plot_advance_append, stringPlots, List.length_cons, Nat.mul_succ, Nat.add_comm lenG]
    rfl

/-- Settles O44: the command and the characters make the same calls, and only `cp` tells their states apart. -/
theorem stringIsItsCharacters : Obligations.StringIsItsCharacters := by
  intro s x y text hfit
  refine ⟨_, _, exec_drawString x y text s, execAll_drawChars y x.le_toInt hfit, ?_⟩
  rw [Nat.add_assoc]
  rfl

end Sys2Proof.Machine
end

section
/-! The bus transactions of commands (43_protocol.md sections 1 to 4): their control bytes, the data stream of a flush,
and SEND_CMD, SEND_DATA, UPDATE, DISPLAY_OFF and DISPLAY_ON. -/

namespace Sys2Proof.Machine

/-! SEND_CMD, SEND_DATA, DISPLAY_OFF and DISPLAY_ON. -/

/-- Settles O46: each command is one bus transaction, answered by the next draw. -/
theorem sendResult : Obligations.SendResult :=
  fun _ _ => ⟨⟨rfl, _, rfl, rfl⟩, ⟨rfl, _, rfl, rfl⟩⟩

theorem linkAfterOff_eq_ite (l : Link) : linkAfterOff l = if l = .active then .sleeping else l := by
  cases l <;> rfl

theorem linkAfterOn_eq_ite (l : Link) : linkAfterOn l = if l = .sleeping then .active else l := by
  cases l <;> rfl

/-- Settles O47: one bus transaction, and `linkAfterOff` moves an `ACTIVE` link alone. -/
theorem displayOffResult : Obligations.DisplayOffResult := by
  refine ⟨rfl, fun s => ⟨_, rfl, ?_⟩⟩
  rw [← linkAfterOff_eq_ite]
  rfl

/-- Settles O48: one bus transaction, and `linkAfterOn` moves a `SLEEPING` link alone. -/
theorem displayOnResult : Obligations.DisplayOnResult := by
  refine ⟨rfl, fun s => ⟨_, rfl, ?_⟩⟩
  rw [← linkAfterOn_eq_ite]
  rfl

/-- Settles O49: INIT's row of the table is part of O59, the other two rows are `linkAfterOff` and `linkAfterOn`, and no
other command writes `link`. -/
theorem linkStateTable : Obligations.LinkStateTable := by
  intro i s
  cases i with
  | init =>
    obtain ⟨t, ht, -, -, hlink⟩ := onlyInitWritesBringUp.1 s
    exact ⟨t, ht, fun _ => hlink, nofun, nofun, fun hi => absurd rfl hi⟩
  | displayOff => exact ⟨_, rfl, nofun, fun _ => rfl, nofun, fun _ hi => absurd rfl hi⟩
  | displayOn => exact ⟨_, rfl, nofun, nofun, fun _ => rfl, fun _ _ hi => absurd rfl hi⟩
  | update => exact ⟨_, exec_update s, nofun, nofun, nofun, fun _ _ _ => by simp⟩
  | _ => exact ⟨_, rfl, nofun, nofun, nofun, fun _ _ _ => rfl⟩

/-! The data stream of a flush (R189). -/

theorem chunkData_length (c : Config) (m : Memory) (k : Nat) :
    (chunkData c m k).length = min (16 * k + 16) c.nFb - 16 * k := by
  simp [chunkData, chunkBytes, Nat.mul_comm k]

theorem chunkData_getElem? {c : Config} {m : Memory} {k j : Nat} (hj : j < (chunkData c m k).length) :
    (chunkData c m k)[j]? = some (m.read (16 * k + j)) := by
  rw [List.getElem?_eq_getElem hj]
  simp [chunkData, chunkBytes, Nat.mul_comm k]

/-- The data transactions without their control bytes are the framebuffer in index order. -/
theorem dataTxns_map_tail_flatten (c : Config) (m : Memory) :
    ((dataTxns c m).map List.tail).flatten = (List.range c.nFb).map m.read := by
  have htail : (dataTxns c m).map List.tail = (List.range (chunkCount c)).map fun k => chunkData c m k := by
    simp [dataTxns]
  have hall : min (16 * chunkCount c) c.nFb = c.nFb := by rw [chunkCount_eq]; omega
  rw [htail, chunkData_flatten c m le_rfl, hall]

/-- Settles O51: transaction `k` carries chunk `k`, whose length only the last chunk's end cuts short, and the chunks
together are the framebuffer. -/
theorem dataStream : Obligations.DataStream := by
  refine fun c m => ⟨dataTxns_length c m, fun k l hl => ?_, dataTxns_map_tail_flatten c m⟩
  obtain ⟨hk, rfl⟩ := dataTxns_getElem hl
  rw [chunkCount_eq] at hk
  have hlen := chunkData_length c m k
  rw [List.tail_cons]
  exact ⟨rfl, by omega, by omega, fun _ => by omega, fun _ => by omega, fun j => chunkData_getElem?⟩

/-! UPDATE. -/

/-- Settles O50: UPDATE is its window transactions and data transactions, in order, and nothing else. -/
theorem updateResult : Obligations.UpdateResult := by
  refine ⟨rfl, fun s => ⟨_, exec_update s, ?_⟩⟩
  rw [State.flush_eq, State.busTxns_eq]
  rfl

/-- Of the transactions of a flush, those that begin with `CTRL_DATA` are the data transactions. -/
theorem filter_ctrlData_flush (c : Config) (m : Memory) :
    (windowTxns c ++ dataTxns c m).filter (fun l => l.head? == some 0x40#8) = dataTxns c m := by
  have hwindow : (windowTxns c).filter (fun l => l.head? == some 0x40#8) = [] := rfl
  have hdata : ∀ l ∈ dataTxns c m, (l.head? == some 0x40#8) = true := by
    simp [dataTxns, ctrlData]
  rw [List.filter_append, hwindow, List.nil_append, List.filter_eq_self.2 hdata]

/-- The data transactions carry `N_FB` bytes behind their control bytes. -/
theorem dataTxns_payload_sum (c : Config) (m : Memory) :
    ((dataTxns c m).map fun l => l.length - 1).sum = c.nFb := by
  have h := congrArg List.length (dataTxns_map_tail_flatten c m)
  simpa [List.length_flatten, Function.comp_def] using h

/-- Settles O52: UPDATE records one event per transaction of the flush, and the data transactions carry the
framebuffer. -/
theorem updateCounts : Obligations.UpdateCounts := by
  intro s
  refine ⟨_, txnEvents s 0 (windowTxns s.cfg ++ dataTxns s.cfg s.fb), exec_update s, by simp, ?_⟩
  rw [txnEvents_length, txnBytes_txnEvents, filter_ctrlData_flush, List.length_append, windowTxns_length,
    dataTxns_length]
  exact ⟨rfl, rfl, dataTxns_payload_sum _ _⟩

end Sys2Proof.Machine
end

section
/-! INIT (43_protocol.md section 5): the init sequence, and what INIT does in each of its two endings. -/

namespace Sys2Proof.Machine

/-- The 17 steps of `INIT_SEQ`, one byte list each (R196). -/
def initSteps (c : Config) : List (List Byte) :=
  [ [c.opDisplayOff],
    [c.initClkDiv.1, c.initClkDiv.2],
    c.initMux ++ [BitVec.ofNat 8 (c.height - 1)],
    c.initOffset ++ [0x00#8],
    c.initStartLine,
    [c.initChargePump.1, c.initChargePump.2],
    [c.initAddrMode.1, c.initAddrMode.2],
    c.initSegRemap,
    c.initComScan,
    [c.initComPins.1, c.initComPins.2],
    [c.initContrast.1, c.initContrast.2],
    [c.initPrecharge.1, c.initPrecharge.2],
    [c.initVcom.1, c.initVcom.2],
    c.initResume,
    c.initNormal,
    c.initNoScroll,
    [c.opDisplayOn] ]

theorem initSeq_eq_flatten (c : Config) : c.initSeq = (initSteps c).flatten := by
  simp [Config.initSeq, initSteps]

/-- Settles O53: `initSteps` names the steps, and each stands at its place. -/
theorem initSequenceSteps : Obligations.InitSequenceSteps :=
  fun c => ⟨initSteps c, rfl, initSeq_eq_flatten c, rfl, rfl, rfl, rfl, rfl, rfl, rfl, rfl, rfl, rfl, rfl, rfl, rfl,
    rfl, rfl, rfl, rfl⟩

/-! The trace of INIT. -/

/-- The events of INIT up to its probe, the probe included (R195). -/
def probeEvents (s : State) : List Event := bringUpEvents ++ [.probe (s.ackAt 0)]

theorem bringUp_probe_trace (s : State) : s.bringUp.probe.trace = s.trace ++ probeEvents s := by
  simp [probeEvents, State.ackAt_zero]

/-- The probe uses up one draw, so the transactions after it are answered from the next one on. -/
theorem txnEvents_bringUp_probe (s : State) (txns : List (List Byte)) :
    txnEvents s.bringUp.probe 0 txns = txnEvents s 1 txns :=
  txnEvents_drop (n := 1) (by simp) (by simp) 0 txns

theorem init_success_trace (s : State) :
    (s.bringUp.probe.initSucceed.advance lenN).trace =
      s.trace ++ (probeEvents s ++ txnEvents s 1 (initTxns s.cfg)) := by
  rw [State.advance_trace, State.initSucceed_trace, bringUp_probe_trace, txnEvents_bringUp_probe, List.append_assoc]
  simp

theorem init_failure_trace (s : State) :
    (s.bringUp.probe.initFail.advance lenN).trace = s.trace ++ probeEvents s := by
  rw [State.advance_trace, State.initFail_trace, bringUp_probe_trace]

/-- Settles O54: the bring-up, the probe and the failure result, field by field. -/
theorem initProbeFails : Obligations.InitProbeFails := by
  intro s ha
  refine ⟨_, exec_init_failure s ha, ?_⟩
  ext1
  case trace => rw [init_failure_trace, probeEvents, ha]; rfl
  all_goals simp [lenN]

/-- Settles O55: the bring-up, the probe, the transactions of steps (d) and (e) and the success result, field by
field. -/
theorem initProbeSucceeds : Obligations.InitProbeSucceeds := by
  intro s ha
  refine ⟨_, initTxns s.cfg, exec_init_success s ha, (List.append_assoc _ _ _).symm, by simp, ?_⟩
  ext1
  case trace => rw [init_success_trace, probeEvents, ha, ← List.append_assoc]; rfl
  all_goals simp [lenN]

theorem initTxns_length (c : Config) : (initTxns c).length = c.initSeq.length + (6 + (c.nFb + 15) / 16) := by
  simp [initTxns]

/-- Settles O56: the eight events of the bring-up, one for the probe, and behind an acknowledged probe one for each
transaction. -/
theorem initEventCount : Obligations.InitEventCount := by
  intro s
  have hprobe : (probeEvents s).length = 9 := rfl
  cases ha : s.ackAt 0 with
  | false => exact ⟨_, _, exec_init_failure s ha, init_failure_trace s, hprobe⟩
  | true =>
    refine ⟨_, _, exec_init_success s ha, init_success_trace s, ?_⟩
    rw [List.length_append, hprobe, txnEvents_length, initTxns_length, if_pos rfl]
    omega

end Sys2Proof.Machine
end

section
/-! What every command does on the bus (43_protocol.md section 1, R180 to R182): it appends events to the trace, its
transactions have control bytes, and it takes the environment's draws in order. -/

namespace Sys2Proof.Machine

/-! Control bytes (R180). -/

/-- The byte list of a transaction begins with `CTRL_CMD` or `CTRL_DATA` (R180). -/
def HasControlByte (bytes : List Byte) : Prop := bytes.head? = some 0x80#8 ∨ bytes.head? = some 0x40#8

theorem hasControlByte_commandTxn (b : Byte) : HasControlByte (commandTxn b) := .inl rfl

theorem hasControlByte_dataTxn (b : Byte) : HasControlByte (dataTxn b) := .inr rfl

theorem hasControlByte_of_mem_flush (c : Config) (m : Memory) :
    ∀ bytes ∈ windowTxns c ++ dataTxns c m, HasControlByte bytes := by
  refine List.forall_mem_append.2 ⟨?_, ?_⟩
  · simp [windowTxns, hasControlByte_commandTxn]
  · simp only [dataTxns, List.forall_mem_map]
    exact fun _ _ => .inr rfl

theorem hasControlByte_of_mem_initTxns (c : Config) : ∀ bytes ∈ initTxns c, HasControlByte bytes :=
  List.forall_mem_append.2
    ⟨List.forall_mem_map.2 fun b _ => hasControlByte_commandTxn b, hasControlByte_of_mem_flush c _⟩

/-! The bus record of a command. -/

/-- From `s` to `t` the trace grew by `evs`, whose transactions have control bytes and whose acknowledgements are the
draws used up. -/
structure BusRecord (s t : State) (evs : List Event) : Prop where
  trace_eq : t.trace = s.trace ++ evs
  acks_eq : t.acks = s.acks.drop (eventAcks evs).length
  draws_eq : t.draws = s.draws + (eventAcks evs).length
  eventAcks_eq : eventAcks evs = (List.range (eventAcks evs).length).map s.ackAt
  control : ∀ bytes ∈ txnBytes evs, HasControlByte bytes

/-- Events `pre` without a transaction that use the first `k` draws, then transactions that use the next ones. -/
theorem BusRecord.of_append {s t : State} {pre : List Event} {txns : List (List Byte)} {k : Nat}
    (hacks : eventAcks pre = (List.range k).map s.ackAt) (hpre : txnBytes pre = [])
    (hc : ∀ bytes ∈ txns, HasControlByte bytes) (ht : t.trace = s.trace ++ (pre ++ txnEvents s k txns))
    (ha : t.acks = s.acks.drop (k + txns.length)) (hd : t.draws = s.draws + (k + txns.length)) :
    BusRecord s t (pre ++ txnEvents s k txns) := by
  have hevs : eventAcks (pre ++ txnEvents s k txns) = (List.range (k + txns.length)).map s.ackAt := by
    rw [eventAcks_append, hacks, eventAcks_txnEvents, List.range_add, List.map_append, List.map_map]
    rfl
  have hlen : (eventAcks (pre ++ txnEvents s k txns)).length = k + txns.length := by simp [hevs]
  refine ⟨ht, by rw [hlen, ha], by rw [hlen, hd], by rw [hlen, hevs], ?_⟩
  rwa [txnBytes_append, hpre, txnBytes_txnEvents]

/-- A command that leaves the trace and the draws alone. -/
theorem BusRecord.of_unchanged {s t : State} (ht : t.trace = s.trace) (ha : t.acks = s.acks)
    (hd : t.draws = s.draws) : BusRecord s t [] :=
  .of_append (pre := []) (txns := []) (k := 0) rfl rfl nofun (by simp [ht]) ha hd

/-- A command whose only events are transactions. -/
theorem BusRecord.of_busTxns {s t : State} {txns : List (List Byte)} (hc : ∀ bytes ∈ txns, HasControlByte bytes)
    (ht : t.trace = (s.busTxns txns).trace) (ha : t.acks = (s.busTxns txns).acks)
    (hd : t.draws = (s.busTxns txns).draws) : BusRecord s t (txnEvents s 0 txns) :=
  .of_append (pre := []) (k := 0) rfl rfl hc (by simpa using ht) (by simpa using ha) (by simpa using hd)

/-- A command whose only event is one transaction. -/
theorem BusRecord.of_busTxn {s t : State} {bytes : List Byte} (hc : HasControlByte bytes)
    (ht : t.trace = (s.busTxn bytes).trace) (ha : t.acks = (s.busTxn bytes).acks)
    (hd : t.draws = (s.busTxn bytes).draws) : BusRecord s t (txnEvents s 0 [bytes]) :=
  .of_busTxns (List.forall_mem_singleton.2 hc) ht ha hd

/-- Every command completes and has a bus record: a drawing command an empty one, INIT one that begins with the bring-up
and the probe, and the others one of transactions alone. -/
theorem exec_busRecord (i : Instr) (s : State) : ∃ t evs, exec i s = .next t ∧ BusRecord s t evs := by
  cases i with
  | init =>
    have hacks : eventAcks (probeEvents s) = (List.range 1).map s.ackAt := rfl
    cases ha : s.ackAt 0 with
    | false =>
      exact ⟨_, _, exec_init_failure s ha, .of_append (txns := []) hacks rfl nofun
        (by rw [init_failure_trace, txnEvents_nil, List.append_nil]) (by simp) (by simp)⟩
    | true =>
      exact ⟨_, _, exec_init_success s ha, .of_append hacks rfl (hasControlByte_of_mem_initTxns s.cfg)
        (init_success_trace s) (by simp [Nat.add_comm]) (by simp [Nat.add_assoc])⟩
  | update =>
    exact ⟨_, _, exec_update s, .of_busTxns (hasControlByte_of_mem_flush s.cfg s.fb) (by simp) (by simp) (by simp)⟩
  | displayOff | displayOn | sendCmd b =>
    exact ⟨_, _, rfl, .of_busTxn (hasControlByte_commandTxn _) rfl rfl rfl⟩
  | sendData b => exact ⟨_, _, rfl, .of_busTxn (hasControlByte_dataTxn b) rfl rfl rfl⟩
  | _ => exact ⟨_, _, rfl, .of_unchanged rfl rfl rfl⟩

theorem mem_txnBytes {evs : List Event} {bytes : List Byte} {ack : Bool} (h : Event.txn bytes ack ∈ evs) :
    bytes ∈ txnBytes evs := by
  obtain ⟨before, after, rfl⟩ := List.append_of_mem h
  simp [txnBytes_append, txnBytes]

/-- Settles O58: the bus record of the command. -/
theorem traceIsAppendOnly : Obligations.TraceIsAppendOnly := by
  intro i s
  obtain ⟨t, evs, ht, r⟩ := exec_busRecord i s
  exact ⟨t, evs, ht, r.trace_eq, fun bytes _ h => r.control bytes (mem_txnBytes h)⟩

/-- Settles O60: the bus record of the command. -/
theorem drawsAreTakenInOrder : Obligations.DrawsAreTakenInOrder := by
  intro i s
  obtain ⟨t, evs, ht, r⟩ := exec_busRecord i s
  exact ⟨t, evs, ht, r.trace_eq, r.eventAcks_eq, State.ackAt_drop r.acks_eq r.draws_eq⟩

/-! The acknowledgements decide nothing but the outcome of INIT (R182). -/

namespace SameButAcks

variable {s t : State}

theorem cfg_eq (h : SameButAcks s t) : s.cfg = t.cfg := (congrArg State.cfg h.2 :)

theorem fb_eq (h : SameButAcks s t) : s.fb = t.fb := (congrArg State.fb h.2 :)

theorem advance (h : SameButAcks s t) (n : Nat) : SameButAcks (s.advance n) (t.advance n) :=
  ⟨h.1, congrArg (State.advance · n) h.2⟩

theorem setLink (h : SameButAcks s t) (l : Link) : SameButAcks (s.setLink l) (t.setLink l) :=
  ⟨h.1, congrArg (State.setLink · l) h.2⟩

theorem setFb (h : SameButAcks s t) (m : Memory) : SameButAcks (s.setFb m) (t.setFb m) :=
  ⟨h.1, congrArg (State.setFb · m) h.2⟩

theorem setInitResult (h : SameButAcks s t) (ok : Bool) (l : Link) :
    SameButAcks (s.setInitResult ok l) (t.setInitResult ok l) :=
  ⟨h.1, congrArg (State.setInitResult · ok l) h.2⟩

/-- The same transactions leave the same events but for their acknowledgements. -/
theorem busTxns (h : SameButAcks s t) (txns : List (List Byte)) : SameButAcks (s.busTxns txns) (t.busTxns txns) := by
  refine ⟨?_, ?_⟩
  · rw [State.busTxns_trace, State.busTxns_trace, List.map_append, List.map_append, h.1, txnEvents_withoutAck s t]
  · rw [State.busTxns_eq, State.busTxns_eq]
    exact h.2

theorem flush (h : SameButAcks s t) : SameButAcks s.flush t.flush := by
  rw [State.flush_eq, State.flush_eq, h.cfg_eq, h.fb_eq]
  exact h.busTxns _

theorem configure (h : SameButAcks s t) : SameButAcks s.configure t.configure := by
  rw [State.configure, State.configure, h.cfg_eq]
  exact h.busTxns _

theorem initSucceed (h : SameButAcks s t) : SameButAcks s.initSucceed t.initSucceed :=
  ((h.configure.setFb _).flush).setInitResult _ _

theorem initFail (h : SameButAcks s t) : SameButAcks s.initFail t.initFail := h.setInitResult _ _

end SameButAcks

/-- Settles O57: each part of a command keeps two states the same but for their acknowledgements; only INIT looks at an
acknowledgement, and there the two are equal. -/
theorem acksDecideNothingElse : Obligations.AcksDecideNothingElse := by
  intro i s acks draws hinit
  set s' : State := { s with acks := acks, draws := draws }
  have h : SameButAcks s s' := ⟨rfl, rfl⟩
  cases i with
  | init =>
    have hanswer : s.ackAt 0 = s'.ackAt 0 := hinit rfl
    have hprobe : SameButAcks s.bringUp.probe s'.bringUp.probe := by
      refine ⟨?_, rfl⟩
      rw [bringUp_probe_trace, bringUp_probe_trace, probeEvents, probeEvents, hanswer]
    cases ha : s.ackAt 0 with
    | false =>
      have ha' : s'.ackAt 0 = false := hanswer.symm.trans ha
      exact ⟨_, _, exec_init_failure s ha, exec_init_failure s' ha', hprobe.initFail.advance _⟩
    | true =>
      have ha' : s'.ackAt 0 = true := hanswer.symm.trans ha
      exact ⟨_, _, exec_init_success s ha, exec_init_success s' ha', hprobe.initSucceed.advance _⟩
  | update => exact ⟨_, _, exec_update s, exec_update s', h.flush.advance _⟩
  | displayOff | displayOn => exact ⟨_, _, rfl, rfl, ((h.busTxns [_]).setLink _).advance _⟩
  | sendCmd b | sendData b => exact ⟨_, _, rfl, rfl, (h.busTxns [_]).advance _⟩
  | _ => exact ⟨_, _, rfl, rfl, rfl, rfl⟩

end Sys2Proof.Machine
end

section
/-! The one fault and the halt (60_exceptions.md, R221 to R223), and the streams that never stop (R264). -/

namespace Sys2Proof.Machine

/-! ILLEGAL in STATUS (R27). -/

theorem status_getLsbD_four (s : State) : s.status.getLsbD 4 = s.illegal := statusWith_getLsbD s false 4

/-- Raising the fault turns bit 4 of STATUS on and leaves each other bit (R222). -/
theorem status_setIllegal (s : State) : s.setIllegal.status = s.status ||| 0x10#8 := by
  apply BitVec.eq_of_getLsbD_eq
  intro k hk
  rw [BitVec.getLsbD_or, State.status, State.status, statusWith_getLsbD, statusWith_getLsbD]
  interval_cases k <;> simp

/-! The illegal byte (R221, R222). -/

/-- Settles O13: the decoder finds the byte illegal, so the step raises the fault, and the block it leaves is halted at
the same byte. -/
theorem illegalOpcodeRaisesFault : Obligations.IllegalOpcodeRaisesFault := by
  intro s op rest ha hi hp hop
  obtain ⟨op', hd⟩ := (illegalOpcodeBytes.1 op rest).2 hop
  rw [← hp] at hd
  have hbyte : s.opcodeByte = op := congrArg (List.headD · 0x00#8) hp
  have hhalt : step s.setIllegal = .fault (.illegalOpcode s.cp s.opcodeByte) := step_halted ha rfl
  exact ⟨step_illegal ha hi hd, status_setIllegal s, hbyte ▸ hhalt⟩

/-! The halt (R223). -/

/-- Settles O14: a halted block faults at its first step and takes no byte from the host; reset writes every register. -/
theorem haltIsFinal : Obligations.HaltIsFinal := by
  intro s bs hi ha
  have hfault := step_halted ha hi
  refine ⟨⟨_, _, hfault⟩, State.hostWrites_halted bs hi, (status_getLsbD_four s).trans hi, fun k t hrun => ?_, rfl⟩
  rw [State.hostWrites_halted bs hi, run_fault k hfault] at hrun
  cases hrun

/-- Settles O15: a block that is not admitted is refused, and one that runs answers a next state. -/
theorem onlyHaltedFaults : Obligations.OnlyHaltedFaults := by
  intro s r h
  have ha : s.cfg.admitted = true := by
    by_contra hn
    obtain ⟨r', hr'⟩ := (exists_step_refused_iff s).2 hn
    cases h.symm.trans hr'
  cases hi : s.illegal with
  | false =>
    obtain ⟨t, ht⟩ := step_running ha hi
    cases h.symm.trans ht
  | true =>
    cases h.symm.trans (step_halted ha hi)
    exact ⟨rfl, rfl⟩

/-! Safe runs (R264). -/

theorem runsOn_succ {s t : State} {k : Nat} (h : step s = .next t) (ht : RunsOn k t) : RunsOn (k + 1) s := by
  obtain ⟨u, hu⟩ := ht
  exact ⟨u, (run_next k h).trans hu⟩

theorem Safe.of_step {s t : State} (h : step s = .next t) (ht : Safe t) : Safe s
  | 0 => ⟨s, rfl⟩
  | k + 1 => runsOn_succ h (ht k)

/-- A block that waits, waits for ever on the bytes it has (R75 step 4, log entry 5). -/
theorem safe_of_step_self {s : State} (h : step s = .next s) : Safe s
  | 0 => ⟨s, rfl⟩
  | k + 1 => runsOn_succ h (safe_of_step_self h k)

/-- Settles O21, by induction on the commands: the step on the first one leaves a running block with the others pending,
and behind the last one the block waits. -/
theorem wholeCommandsAreSafe : Obligations.WholeCommandsAreSafe := by
  intro s is ha hi hwf hp
  induction is generalizing s with
  | nil =>
    have hd : decode s.pending = .incomplete := by rw [hp]; rfl
    exact safe_of_step_self (step_incomplete ha hi hd)
  | cons i is ih =>
    rw [List.flatMap_cons] at hp
    obtain ⟨hwfi, hwfis⟩ := List.forall_mem_cons.1 hwf
    obtain ⟨hstep, -⟩ := stepRunsDecodedCommand s i _ ha hi hwfi hp
    obtain ⟨t, he, heff⟩ := exec_effect i s
    exact .of_step (hstep.trans he)
      (ih t (heff.cfg_eq ▸ ha) (heff.illegal_eq.trans hi) hwfis (heff.pending_eq hp))

end Sys2Proof.Machine
end

section
/-! The values after reset (70_reset_and_hazards.md, R250, R251). -/

namespace Sys2Proof.Machine

/-- The reset input and `State.reset` leave reset states; they differ in the configuration and the draws alone (R250). -/
theorem exists_eq_resetWith {s t : State} (h : t = s.applyReset ∨ t = State.reset) :
    ∃ cfg acks draws, t = State.resetWith cfg acks draws := by
  obtain rfl | rfl := h
  · exact ⟨s.cfg, s.acks, s.draws, rfl⟩
  · exact ⟨Config.board, [], 0, rfl⟩

@[simp] theorem resetWith_fb_read (cfg : Config) (acks : List Bool) (draws i : Nat) :
    (State.resetWith cfg acks draws).fb.read i = 0x00#8 := Memory.read_nil i

/-- Every field of STATUS is 0 after reset: the code of UNINIT and the three flags (R27). -/
@[simp] theorem resetWith_status (cfg : Config) (acks : List Bool) (draws : Nat) :
    (State.resetWith cfg acks draws).status = 0x00#8 := by
  simp [State.status, State.statusWith, State.resetWith, linkCode]

/-- Settles O1: either state is a reset state, which gives each register its value outright; FB and STATUS are read
through their accessors. -/
theorem resetValues : Obligations.ResetValues := by
  intro s t h
  obtain ⟨cfg, acks, draws, rfl⟩ := exists_eq_resetWith h
  exact ⟨resetWith_fb_read cfg acks draws, rfl, rfl, rfl, rfl, rfl, resetWith_status cfg acks draws, rfl, rfl, rfl, rfl,
    rfl⟩

end Sys2Proof.Machine
end

section
/-! The invariant right after reset (70_reset_and_hazards.md section 1, 00_scope.md section 4). -/

namespace Sys2Proof.Machine

/-- After reset the link is down, the bus closed and neither line driven, so the bring-up registers agree (R29 to R31, R251). -/
theorem resetWith_bringUpConsistent (cfg : Config) (acks : List Bool) (draws : Nat) :
    bringUpConsistent (State.resetWith cfg acks draws) = true := rfl

/-- A reset block is not halted (R251). -/
theorem resetWith_haltedAtIllegalByte (cfg : Config) (acks : List Bool) (draws : Nat) :
    haltedAtIllegalByte (State.resetWith cfg acks draws) = true := rfl

/-- Reset establishes every part of the invariant but the admission of the configuration, which it does not touch
(R251, R254). -/
theorem resetWith_inv_iff (cfg : Config) (acks : List Bool) (draws : Nat) :
    (State.resetWith cfg acks draws).inv = true ↔ cfg.admitted = true := by
  rw [State.inv_iff]
  constructor
  · rintro ⟨hadm, -⟩
    exact hadm
  · intro hadm
    exact ⟨hadm, rfl, rfl, Nat.le_refl 0, resetWith_bringUpConsistent cfg acks draws,
      resetWith_haltedAtIllegalByte cfg acks draws⟩

/-- The reference size 128 by 64 with one host (log entry 2) is admitted, whatever the OPEN values are (R8, R10, R63). -/
theorem board_admitted : Config.board.admitted = true :=
  (admitted_iff _).2 ⟨rfl, rfl⟩

/-- Settles O2: reset leaves only the admission of the configuration to check, and the board's is admitted. -/
theorem resetMeetsInvariant : Obligations.ResetMeetsInvariant :=
  (resetWith_inv_iff _ _ _).2 board_admitted

end Sys2Proof.Machine
end
